-- ==== Sys2Proof/Word.lean ====
section
/-! DEFINITION. The machine's words: what the spec treats as bits (00_scope R8, R20; `GPRLEN` = 32 by D1). -/

namespace Sys2Proof

/-- A register value or an address: 32 bits (10_state R20, R25). -/
abbrev Word := BitVec 32
/-- An instruction halfword (30_encoding R83) or a memory halfword. -/
abbrev Half := BitVec 16
/-- What one memory address names (20_memory R50). -/
abbrev Byte := BitVec 8
/-- The number of a general register (10_state R20). -/
abbrev Gpr := Fin 32

end Sys2Proof
end

