-- ==== Sys2Proof/Config.lean ====
section
/-! DEFINITION. What an implementation fixes: the parameters of the step (10_state R32), as plain data that
State carries unchanged (log 3), and the free values, which nothing in Lean can evaluate. -/

namespace Sys2Proof

/-- One region of `cfg.mem` (20_memory R57, D5): `size` readable bytes from `base`, writable or not. -/
structure Region where
  base : Nat
  size : Nat
  writable : Bool
  deriving DecidableEq, Repr

/-- The parameters 10_state R32 names: `cfg.bigEndian` (D2), `cfg.mem` (D5), `cfg.asmacro` (D10).
Every statement about every state is a statement about every value of these. -/
structure Cfg where
  bigEndian : Bool
  mem : List Region
  /-- The `select` values whose macro this implementation has (42_system R170). -/
  asmacro : List (BitVec 3)
  deriving DecidableEq, Repr

/-- DESIGN CHOICE (log 3), unsafe: the launch configuration of `State.reset`. The spec leaves the byte order
(D2) and the memory map (D5) open; `asmacro` is empty by D10. -/
def Cfg.launch : Cfg :=
  { bigEndian := false, mem := [⟨0, 4294967296, true⟩], asmacro := [] }

/-- `draw_32()` of 00_scope R11: the n-th value drawn, under no law (log 6). Safe. -/
opaque Config.draw32 : Nat → Word

/-- What DEPC holds after an SDBBP at this pc, in this ISA mode, in a delay slot or not: "its exact value and
format are not in the source" (42_system R172 (b); log 7). Safe. -/
opaque Config.depcValue : Word → Bool → Bool → Word

end Sys2Proof
end

