-- ==== Sys2Proof/Syntax.lean ====
section
/-! DEFINITION. The instructions: one constructor per row of spec/opcode_table.json, in the table's order.
Operands stand in the order of the assembler form (30_encoding R103). A 3-bit field `rx`, `ry`, `rz` is kept as
the field and names a register through `xlat` (10_state R22); `r32` names one of the 32 directly. -/

namespace Sys2Proof

inductive Instr where
  /-- ADDIU rx, imm (R120). -/
  | addiuRxImm (rx : BitVec 3) (imm : BitVec 16)
  /-- ADDIU rx, pc, imm (R121). -/
  | addiuRxPcImm (rx : BitVec 3) (imm : BitVec 16)
  /-- ADDIU rx, sp, imm (R122). -/
  | addiuRxSpImm (rx : BitVec 3) (imm : BitVec 16)
  /-- ADDIU ry, rx, imm (R123). -/
  | addiuRyRxImm (ry rx : BitVec 3) (imm : BitVec 15)
  /-- ADDIU sp, imm (R124). -/
  | addiuSpImm (imm : BitVec 16)
  /-- ADDU rz, rx, ry (R125). -/
  | addu (rz rx ry : BitVec 3)
  /-- NEG rx, ry (R126). -/
  | neg (rx ry : BitVec 3)
  /-- SUBU rz, rx, ry (R127). -/
  | subu (rz rx ry : BitVec 3)
  /-- AND rx, ry (R140). -/
  | and (rx ry : BitVec 3)
  /-- CMPI rx, imm (R141). -/
  | cmpi (rx : BitVec 3) (imm : BitVec 16)
  /-- CMP rx, ry (R142). -/
  | cmp (rx ry : BitVec 3)
  /-- LI rx, imm (R143). -/
  | li (rx : BitVec 3) (imm : BitVec 16)
  /-- MOVE r32, rz (R144). -/
  | moveR32Rz (r32 : BitVec 5) (rz : BitVec 3)
  /-- MOVE ry, r32 (R145). -/
  | moveRyR32 (ry : BitVec 3) (r32 : BitVec 5)
  /-- NOP (R146): the assembly idiom for MOVE $0, $16, which is what its word decodes to (log 19). -/
  | nop
  /-- NOT rx, ry (R147). -/
  | not (rx ry : BitVec 3)
  /-- OR rx, ry (R148). -/
  | or (rx ry : BitVec 3)
  /-- SEB rx (R149). -/
  | seb (rx : BitVec 3)
  /-- SEH rx (R150). -/
  | seh (rx : BitVec 3)
  /-- SLTI rx, imm (R151). -/
  | slti (rx : BitVec 3) (imm : BitVec 16)
  /-- SLTIU rx, imm (R152). -/
  | sltiu (rx : BitVec 3) (imm : BitVec 16)
  /-- SLT rx, ry (R153). -/
  | slt (rx ry : BitVec 3)
  /-- SLTU rx, ry (R154). -/
  | sltu (rx ry : BitVec 3)
  /-- XOR rx, ry (R155). -/
  | xor (rx ry : BitVec 3)
  /-- ZEB rx (R156). -/
  | zeb (rx : BitVec 3)
  /-- ZEH rx (R157). -/
  | zeh (rx : BitVec 3)
  /-- ASMACRO select,p0,p1,p2,p3,p4 (R170). -/
  | asmacro (select : BitVec 3) (p0 : BitVec 5) (p1 p2 : BitVec 3) (p3 : BitVec 5) (p4 : BitVec 3)
  /-- BREAK code (R171). -/
  | brk (code : BitVec 6)
  /-- SDBBP code (R172). -/
  | sdbbp (code : BitVec 6)
  /-- BEQZ rx, offset (R182). -/
  | beqz (rx : BitVec 3) (off : BitVec 16)
  /-- BNEZ rx, offset (R183). -/
  | bnez (rx : BitVec 3) (off : BitVec 16)
  /-- B offset (R184). -/
  | b (off : BitVec 16)
  /-- BTEQZ offset (R185). -/
  | bteqz (off : BitVec 16)
  /-- BTNEZ offset (R186). -/
  | btnez (off : BitVec 16)
  /-- JALRC ra, rx (R187). -/
  | jalrc (rx : BitVec 3)
  /-- JALR ra, rx (R188). -/
  | jalr (rx : BitVec 3)
  /-- JAL target (R189). -/
  | jal (target : BitVec 26)
  /-- JALX target, 32-bit MIPS format (R190). -/
  | jalx (index : BitVec 26)
  /-- JRC ra (R191). -/
  | jrcRa
  /-- JRC rx (R192). -/
  | jrcRx (rx : BitVec 3)
  /-- JR ra (R193). -/
  | jrRa
  /-- JR rx (R194). -/
  | jrRx (rx : BitVec 3)
  /-- JALX in MIPS16e format (R195): encoding only. -/
  | jalx16 (target : BitVec 26)
  /-- DIV rx, ry (R210). -/
  | div (rx ry : BitVec 3)
  /-- DIVU rx, ry (R211). -/
  | divu (rx ry : BitVec 3)
  /-- MFHI rx (R212). -/
  | mfhi (rx : BitVec 3)
  /-- MFLO rx (R213). -/
  | mflo (rx : BitVec 3)
  /-- MULT rx, ry (R214). -/
  | mult (rx ry : BitVec 3)
  /-- MULTU rx, ry (R215). -/
  | multu (rx ry : BitVec 3)
  /-- LB ry, offset(rx) (R221). -/
  | lb (ry : BitVec 3) (off : BitVec 16) (rx : BitVec 3)
  /-- LBU ry, offset(rx) (R222). -/
  | lbu (ry : BitVec 3) (off : BitVec 16) (rx : BitVec 3)
  /-- LH ry, offset(rx) (R223). -/
  | lh (ry : BitVec 3) (off : BitVec 16) (rx : BitVec 3)
  /-- LHU ry, offset(rx) (R224). -/
  | lhu (ry : BitVec 3) (off : BitVec 16) (rx : BitVec 3)
  /-- LW rx, offset(pc) (R225). -/
  | lwRxPc (rx : BitVec 3) (off : BitVec 16)
  /-- LW rx, offset(sp) (R226). -/
  | lwRxSp (rx : BitVec 3) (off : BitVec 16)
  /-- LW ry, offset(rx) (R227). -/
  | lwRyRx (ry : BitVec 3) (off : BitVec 16) (rx : BitVec 3)
  /-- SB ry, offset(rx) (R228). -/
  | sb (ry : BitVec 3) (off : BitVec 16) (rx : BitVec 3)
  /-- SH ry, offset(rx) (R229). -/
  | sh (ry : BitVec 3) (off : BitVec 16) (rx : BitVec 3)
  /-- SW ra, offset(sp) (R230). -/
  | swRaSp (off : BitVec 16)
  /-- SW rx, offset(sp) (R231). -/
  | swRxSp (rx : BitVec 3) (off : BitVec 16)
  /-- SW ry, offset(rx) (R232). -/
  | swRyRx (ry : BitVec 3) (off : BitVec 16) (rx : BitVec 3)
  /-- RESTORE (R253). -/
  | restore (ra s0 s1 : Bool) (framesize : BitVec 4)
  /-- RESTORE, Extended (R254). -/
  | restoreExt (ra s0 s1 : Bool) (xsregs : BitVec 3) (aregs : BitVec 4) (framesize : BitVec 8)
  /-- SAVE (R255). -/
  | save (ra s0 s1 : Bool) (framesize : BitVec 4)
  /-- SAVE, Extended (R256). -/
  | saveExt (ra s0 s1 : Bool) (xsregs : BitVec 3) (aregs : BitVec 4) (framesize : BitVec 8)
  /-- SLL rx, ry, sa (R270). -/
  | sll (rx ry : BitVec 3) (sa : BitVec 5)
  /-- SLLV ry, rx (R271). -/
  | sllv (ry rx : BitVec 3)
  /-- SRA rx, ry, sa (R272). -/
  | sra (rx ry : BitVec 3) (sa : BitVec 5)
  /-- SRAV ry, rx (R273). -/
  | srav (ry rx : BitVec 3)
  /-- SRL rx, ry, sa (R274). -/
  | srl (rx ry : BitVec 3) (sa : BitVec 5)
  /-- SRLV ry, rx (R275). -/
  | srlv (ry rx : BitVec 3)
  deriving DecidableEq, Repr

end Sys2Proof
end

