-- ==== Sys2Proof/WellFormed.lean ====
section
/-! DEFINITION. Which instruction terms a decoder can produce. -/

namespace Sys2Proof

/-- Whether the term stands for an encoding of its own. Operand ranges are in the types, so the one check left
is R146's: NOP is an idiom, whose word decodes to MOVE $0, $16 ("It has no row of its own in the decoder";
30_encoding R92: "a decoder must not treat them as a separate instruction"). A reserved `aregs` (46_save_restore
R251) is well-formed: the word is a SAVE or RESTORE, and the instruction faults. -/
def Instr.wellFormed : Instr → Bool
  | .addiuRxImm _ _ | .addiuRxPcImm _ _ | .addiuRxSpImm _ _ | .addiuRyRxImm _ _ _ | .addiuSpImm _ |
      .addu _ _ _ | .neg _ _ | .subu _ _ _ | .and _ _ | .cmpi _ _ | .cmp _ _ | .li _ _ | .moveR32Rz _ _ |
      .moveRyR32 _ _ => true
  | .nop => false
  | .not _ _ | .or _ _ | .seb _ | .seh _ | .slti _ _ | .sltiu _ _ | .slt _ _ | .sltu _ _ | .xor _ _ |
      .zeb _ | .zeh _ | .asmacro _ _ _ _ _ _ | .brk _ | .sdbbp _ | .beqz _ _ | .bnez _ _ | .b _ | .bteqz _
      | .btnez _ | .jalrc _ | .jalr _ | .jal _ | .jalx _ | .jrcRa | .jrcRx _ | .jrRa | .jrRx _ | .jalx16 _
      | .div _ _ | .divu _ _ | .mfhi _ | .mflo _ | .mult _ _ | .multu _ _ | .lb _ _ _ | .lbu _ _ _ |
      .lh _ _ _ | .lhu _ _ _ | .lwRxPc _ _ | .lwRxSp _ _ | .lwRyRx _ _ _ | .sb _ _ _ | .sh _ _ _ |
      .swRaSp _ | .swRxSp _ _ | .swRyRx _ _ _ | .restore _ _ _ _ | .restoreExt _ _ _ _ _ _ | .save _ _ _ _
      | .saveExt _ _ _ _ _ _ | .sll _ _ _ | .sllv _ _ | .sra _ _ _ | .srav _ _ | .srl _ _ _ | .srlv _ _ =>
      true

/-- `Instr.wellFormed` as a proposition. -/
abbrev Instr.WellFormed (i : Instr) : Prop := i.wellFormed = true

end Sys2Proof
end

