-- ==== Sys2Proof/Decode.lean ====
section
/-! DEFINITION. Decoding (30_encoding R80 to R105), total and rejecting by name, and after it the encoder, written
from the same figures (R83 to R88). -/

namespace Sys2Proof

/-! ## The words of an instruction -/

/-- The words of one instruction: a 16-bit instruction, a 32-bit MIPS16e instruction as the two halfwords in the
order of the figure (R82: the left one at the lower address), or a 32-bit MIPS word (R85). -/
inductive Code where
  | half (hw : Half)
  | pair (hw1 hw2 : Half)
  | mips32 (w : Word)
  deriving DecidableEq, Repr

/-- Why no instruction was decoded. -/
inductive DecodeReject where
  /-- A halfword that matches no row of the opcode table (R100). -/
  | notInSource16 (hw : Half)
  /-- A 32-bit MIPS16e pair that matches no row of the opcode table (R100, R105). -/
  | notInSource32 (w : Word)
  /-- A 32-bit MIPS word other than JALX (10_state R33). -/
  | mips32NotInSource (w : Word)
  /-- Fewer bytes than the instruction has. -/
  | truncated
  deriving DecidableEq, Repr

/-! ## Fields -/

/-- Bits 15:11, the major opcode (R93). -/
def Code.op (hw : Half) : BitVec 5 := hw.extractLsb' 11 5
/-- Bits 10:8: `rx`, or the I8 function (R97). -/
def Code.rx (hw : Half) : BitVec 3 := hw.extractLsb' 8 3
/-- Bits 7:5: `ry`, or a sub-function (R83). -/
def Code.ry (hw : Half) : BitVec 3 := hw.extractLsb' 5 3
/-- Bits 4:0: the RR function, or the low immediate bits (R83, R84). -/
def Code.f5 (hw : Half) : BitVec 5 := hw.extractLsb' 0 5

/-- Whether a first halfword begins a 4-byte instruction: bits 15:11 are `11110` (EXTEND) or `00011` (JAL) (R81). -/
def Code.isWide (hw : Half) : Bool := Code.op hw == 0b11110#5 || Code.op hw == 0b00011#5

/-- `imm16 = I32[20:16] || I32[26:21] || I32[4:0]` (R86). -/
def Code.imm16 (hw1 hw2 : Half) : BitVec 16 := hw1.extractLsb' 0 5 ++ hw1.extractLsb' 5 6 ++ hw2.extractLsb' 0 5

/-- `imm15 = I32[19:16] || I32[26:20] || I32[3:0]` (R87). -/
def Code.imm15 (hw1 hw2 : Half) : BitVec 15 := hw1.extractLsb' 0 4 ++ hw1.extractLsb' 4 7 ++ hw2.extractLsb' 0 4

/-- `target26 = I32[20:16] || I32[25:21] || I32[15:0]` (R88). -/
def Code.target26 (hw1 hw2 : Half) : BitVec 26 := hw1.extractLsb' 0 5 ++ hw1.extractLsb' 5 5 ++ hw2

/-- The 8-bit `framesize = I32[23:20] || I32[3:0]` (R88). -/
def Code.framesize8 (hw1 hw2 : Half) : BitVec 8 := hw1.extractLsb' 4 4 ++ hw2.extractLsb' 0 4

/-! ## 16-bit instructions -/

/-- The J(AL)R(C) group, RR function 00000, by `nd`, `l`, `ra` (R95 (a)). -/
def decodeJumpReg (hw : Half) : Option Instr :=
  match (Code.ry hw).toNat with
  | 0b000 => some (.jrRx (Code.rx hw))
  | 0b001 => if Code.rx hw = 0 then some .jrRa else none
  | 0b010 => some (.jalr (Code.rx hw))
  | 0b100 => some (.jrcRx (Code.rx hw))
  | 0b101 => if Code.rx hw = 0 then some .jrcRa else none
  | 0b110 => some (.jalrc (Code.rx hw))
  | _ => none

/-- The CNVT group, RR function 10001, by bits 7:5 (R96). -/
def decodeCnvt (hw : Half) : Option Instr :=
  match (Code.ry hw).toNat with
  | 0b000 => some (.zeb (Code.rx hw))
  | 0b001 => some (.zeh (Code.rx hw))
  | 0b100 => some (.seb (Code.rx hw))
  | 0b101 => some (.seh (Code.rx hw))
  | _ => none

/-- The RR group by function (R94); MFHI and MFLO draw bits 7:5 as zero (R91). -/
def decodeRR (hw : Half) : Option Instr :=
  let rx := Code.rx hw
  let ry := Code.ry hw
  match (Code.f5 hw).toNat with
  | 0b00000 => decodeJumpReg hw
  | 0b00001 => some (.sdbbp (rx ++ ry))
  | 0b00010 => some (.slt rx ry)
  | 0b00011 => some (.sltu rx ry)
  | 0b00100 => some (.sllv ry rx)
  | 0b00101 => some (.brk (rx ++ ry))
  | 0b00110 => some (.srlv ry rx)
  | 0b00111 => some (.srav ry rx)
  | 0b01010 => some (.cmp rx ry)
  | 0b01011 => some (.neg rx ry)
  | 0b01100 => some (.and rx ry)
  | 0b01101 => some (.or rx ry)
  | 0b01110 => some (.xor rx ry)
  | 0b01111 => some (.not rx ry)
  | 0b10000 => if ry = 0 then some (.mfhi rx) else none
  | 0b10001 => decodeCnvt hw
  | 0b10010 => if ry = 0 then some (.mflo rx) else none
  | 0b11000 => some (.mult rx ry)
  | 0b11001 => some (.multu rx ry)
  | 0b11010 => some (.div rx ry)
  | 0b11011 => some (.divu rx ry)
  | _ => none

/-- The RRR group by `f`, bits 1:0 (R98). -/
def decodeRRR (hw : Half) : Option Instr :=
  match (hw.extractLsb' 0 2).toNat with
  | 0b01 => some (.addu (hw.extractLsb' 2 3) (Code.rx hw) (Code.ry hw))
  | 0b11 => some (.subu (hw.extractLsb' 2 3) (Code.rx hw) (Code.ry hw))
  | _ => none

/-- The 16-bit members of the I8 group by function (R97): SAVE, RESTORE by bit 7, and the two MOVEs. -/
def decodeI8 (hw : Half) : Option Instr :=
  match (Code.rx hw).toNat with
  | 0b100 =>
    if hw.getLsbD 7 then some (.save (hw.getLsbD 6) (hw.getLsbD 5) (hw.getLsbD 4) (hw.extractLsb' 0 4))
    else some (.restore (hw.getLsbD 6) (hw.getLsbD 5) (hw.getLsbD 4) (hw.extractLsb' 0 4))
  | 0b101 => some (.moveR32Rz (hw.extractLsb' 3 2 ++ hw.extractLsb' 5 3) (hw.extractLsb' 0 3))
  | 0b111 => some (.moveRyR32 (Code.ry hw) (Code.f5 hw))
  | _ => none

/-- A 16-bit instruction by its major opcode (R93). -/
def decodeHalf (hw : Half) : Option Instr :=
  match (Code.op hw).toNat with
  | 0b01100 => decodeI8 hw
  | 0b11100 => decodeRRR hw
  | 0b11101 => decodeRR hw
  | _ => none

/-! ## 32-bit MIPS16e instructions -/

/-- EXTEND before SHIFT, by `f`; `I32[21:16]` and `I32[4:2]` are drawn as zero (R84, R91, R98). -/
def decodeExtShift (hw1 hw2 : Half) : Option Instr :=
  let sa := hw1.extractLsb' 6 5
  if hw1.extractLsb' 0 6 = 0 ∧ hw2.extractLsb' 2 3 = 0 then
    match (hw2.extractLsb' 0 2).toNat with
    | 0b00 => some (.sll (Code.rx hw2) (Code.ry hw2) sa)
    | 0b10 => some (.srl (Code.rx hw2) (Code.ry hw2) sa)
    | 0b11 => some (.sra (Code.rx hw2) (Code.ry hw2) sa)
    | _ => none
  else none

/-- EXTEND before I8, by function (R97); all but SVRS draw bits 7:5 as zero (R91). -/
def decodeExtI8 (hw1 hw2 : Half) : Option Instr :=
  match (Code.rx hw2).toNat with
  | 0b000 => if Code.ry hw2 = 0 then some (.bteqz (Code.imm16 hw1 hw2)) else none
  | 0b001 => if Code.ry hw2 = 0 then some (.btnez (Code.imm16 hw1 hw2)) else none
  | 0b010 => if Code.ry hw2 = 0 then some (.swRaSp (Code.imm16 hw1 hw2)) else none
  | 0b011 => if Code.ry hw2 = 0 then some (.addiuSpImm (Code.imm16 hw1 hw2)) else none
  | 0b100 =>
    if hw2.getLsbD 7 then
      some (.saveExt (hw2.getLsbD 6) (hw2.getLsbD 5) (hw2.getLsbD 4)
        (hw1.extractLsb' 8 3) (hw1.extractLsb' 0 4) (Code.framesize8 hw1 hw2))
    else
      some (.restoreExt (hw2.getLsbD 6) (hw2.getLsbD 5) (hw2.getLsbD 4)
        (hw1.extractLsb' 8 3) (hw1.extractLsb' 0 4) (Code.framesize8 hw1 hw2))
  | _ => none

/-- EXTEND before a halfword, by that halfword's major opcode (R93, R99); a pair not listed there has no
extended page and is not decoded (R105). -/
def decodeExtend (hw1 hw2 : Half) : Option Instr :=
  let rx := Code.rx hw2
  let ry := Code.ry hw2
  let imm := Code.imm16 hw1 hw2
  match (Code.op hw2).toNat with
  | 0b00000 => if ry = 0 then some (.addiuRxSpImm rx imm) else none
  | 0b00001 => if ry = 0 then some (.addiuRxPcImm rx imm) else none
  | 0b00010 => if rx = 0 ∧ ry = 0 then some (.b imm) else none
  | 0b00100 => if ry = 0 then some (.beqz rx imm) else none
  | 0b00101 => if ry = 0 then some (.bnez rx imm) else none
  | 0b00110 => decodeExtShift hw1 hw2
  | 0b01000 => if hw2.getLsbD 4 then none else some (.addiuRyRxImm ry rx (Code.imm15 hw1 hw2))
  | 0b01001 => if ry = 0 then some (.addiuRxImm rx imm) else none
  | 0b01010 => if ry = 0 then some (.slti rx imm) else none
  | 0b01011 => if ry = 0 then some (.sltiu rx imm) else none
  | 0b01100 => decodeExtI8 hw1 hw2
  | 0b01101 => if ry = 0 then some (.li rx imm) else none
  | 0b01110 => if ry = 0 then some (.cmpi rx imm) else none
  | 0b10000 => some (.lb ry imm rx)
  | 0b10001 => some (.lh ry imm rx)
  | 0b10010 => if ry = 0 then some (.lwRxSp rx imm) else none
  | 0b10011 => some (.lwRyRx ry imm rx)
  | 0b10100 => some (.lbu ry imm rx)
  | 0b10101 => some (.lhu ry imm rx)
  | 0b10110 => if ry = 0 then some (.lwRxPc rx imm) else none
  | 0b11000 => some (.sb ry imm rx)
  | 0b11001 => some (.sh ry imm rx)
  | 0b11010 => if ry = 0 then some (.swRxSp rx imm) else none
  | 0b11011 => some (.swRyRx ry imm rx)
  | 0b11100 =>
    some (.asmacro (hw1.extractLsb' 8 3) (Code.f5 hw2) ry rx (hw1.extractLsb' 0 5) (hw1.extractLsb' 5 3))
  | _ => none

/-- A 32-bit MIPS16e pair: EXTEND, or JAL and JALX by bit `x` (R95 (b)). -/
def decodePair (hw1 hw2 : Half) : Option Instr :=
  match (Code.op hw1).toNat with
  | 0b11110 => decodeExtend hw1 hw2
  | 0b00011 =>
    if hw1.getLsbD 10 then some (.jalx16 (Code.target26 hw1 hw2)) else some (.jal (Code.target26 hw1 hw2))
  | _ => none

/-! ## The decoder -/

/-- The instruction of a code, or the name of the rejection. -/
def decode : Code → Except DecodeReject Instr
  | .half hw =>
    if Code.isWide hw then .error .truncated
    else match decodeHalf hw with
      | some i => .ok i
      | none => .error (.notInSource16 hw)
  | .pair hw1 hw2 =>
    match decodePair hw1 hw2 with
    | some i => .ok i
    | none => .error (.notInSource32 (hw1 ++ hw2))
  | .mips32 w =>
    if w.extractLsb' 26 6 = 0b011101#6 then .ok (.jalx (w.extractLsb' 0 26))
    else .error (.mips32NotInSource w)

/-! ## Byte order (20_memory R52, R54) -/

/-- The halfword of two bytes in address order (R52). -/
def bytesToHalf (bigEndian : Bool) (b0 b1 : Byte) : Half := if bigEndian then b0 ++ b1 else b1 ++ b0

/-- The word of four bytes in address order (R52). -/
def bytesToWord (bigEndian : Bool) (b0 b1 b2 b3 : Byte) : Word :=
  if bigEndian then b0 ++ b1 ++ b2 ++ b3 else b3 ++ b2 ++ b1 ++ b0

/-- The bytes of a halfword in address order (R52). -/
def halfToBytes (bigEndian : Bool) (h : Half) : List Byte :=
  let hi := h.extractLsb' 8 8
  let lo := h.extractLsb' 0 8
  if bigEndian then [hi, lo] else [lo, hi]

/-- The bytes of a word in address order (R52). -/
def wordToBytes (bigEndian : Bool) (w : Word) : List Byte :=
  let b3 := w.extractLsb' 24 8
  let b2 := w.extractLsb' 16 8
  let b1 := w.extractLsb' 8 8
  let b0 := w.extractLsb' 0 8
  if bigEndian then [b3, b2, b1, b0] else [b0, b1, b2, b3]

/-- A code as it lies in memory: each halfword in the data byte order, the first at the lower address (R82). -/
def Code.bytes (bigEndian : Bool) : Code → List Byte
  | .half hw => halfToBytes bigEndian hw
  | .pair hw1 hw2 => halfToBytes bigEndian hw1 ++ halfToBytes bigEndian hw2
  | .mips32 w => wordToBytes bigEndian w

/-- The code at the head of a byte list in MIPS16e mode, its length told by the first halfword (R81). -/
def codeOfBytes16 (bigEndian : Bool) : List Byte → Option (Code × List Byte)
  | b0 :: b1 :: rest =>
    let hw1 := bytesToHalf bigEndian b0 b1
    if Code.isWide hw1 then
      match rest with
      | b2 :: b3 :: rest' => some (.pair hw1 (bytesToHalf bigEndian b2 b3), rest')
      | _ => none
    else some (.half hw1, rest)
  | _ => none

/-- The code at the head of a byte list in 32-bit mode (R81: every instruction is 4 bytes). -/
def codeOfBytes32 (bigEndian : Bool) : List Byte → Option (Code × List Byte)
  | b0 :: b1 :: b2 :: b3 :: rest => some (.mips32 (bytesToWord bigEndian b0 b1 b2 b3), rest)
  | _ => none

/-- The decoder on bytes: the instruction and the rest of the list. `mode` is ISAMode (R81). -/
def decodeBytes (bigEndian mode : Bool) (bs : List Byte) : Except DecodeReject (Instr × List Byte) :=
  match if mode then codeOfBytes16 bigEndian bs else codeOfBytes32 bigEndian bs with
  | none => .error .truncated
  | some (c, rest) =>
    match decode c with
    | .ok i => .ok (i, rest)
    | .error e => .error e

/-! ## What the step needs to know of an instruction -/

/-- `len`, the instruction's length in bytes (R80, 00_scope R14). -/
def Instr.len : Instr → Nat
  | .addiuRxImm _ _ | .addiuRxPcImm _ _ | .addiuRxSpImm _ _ | .addiuRyRxImm _ _ _ | .addiuSpImm _ => 4
  | .addu _ _ _ | .neg _ _ | .subu _ _ _ | .and _ _ => 2
  | .cmpi _ _ => 4
  | .cmp _ _ => 2
  | .li _ _ => 4
  | .moveR32Rz _ _ | .moveRyR32 _ _ | .nop | .not _ _ | .or _ _ | .seb _ | .seh _ => 2
  | .slti _ _ | .sltiu _ _ => 4
  | .slt _ _ | .sltu _ _ | .xor _ _ | .zeb _ | .zeh _ => 2
  | .asmacro _ _ _ _ _ _ => 4
  | .brk _ | .sdbbp _ => 2
  | .beqz _ _ | .bnez _ _ | .b _ | .bteqz _ | .btnez _ => 4
  | .jalrc _ | .jalr _ => 2
  | .jal _ | .jalx _ => 4
  | .jrcRa | .jrcRx _ | .jrRa | .jrRx _ => 2
  | .jalx16 _ => 4
  | .div _ _ | .divu _ _ | .mfhi _ | .mflo _ | .mult _ _ | .multu _ _ => 2
  | .lb _ _ _ | .lbu _ _ _ | .lh _ _ _ | .lhu _ _ _ | .lwRxPc _ _ | .lwRxSp _ _ | .lwRyRx _ _ _ |
      .sb _ _ _ | .sh _ _ _ | .swRaSp _ | .swRxSp _ _ | .swRyRx _ _ _ => 4
  | .restore _ _ _ _ => 2
  | .restoreExt _ _ _ _ _ _ => 4
  | .save _ _ _ _ => 2
  | .saveExt _ _ _ _ _ _ | .sll _ _ _ => 4
  | .sllv _ _ => 2
  | .sra _ _ _ => 4
  | .srav _ _ => 2
  | .srl _ _ _ => 4
  | .srlv _ _ => 2

/-- "Branch or jump" of 10_state R30 line 4: every instruction of 43_branch_jump. -/
def Instr.isBranchOrJump : Instr → Bool
  | .addiuRxImm _ _ | .addiuRxPcImm _ _ | .addiuRxSpImm _ _ | .addiuRyRxImm _ _ _ | .addiuSpImm _ |
      .addu _ _ _ | .neg _ _ | .subu _ _ _ | .and _ _ | .cmpi _ _ | .cmp _ _ | .li _ _ | .moveR32Rz _ _ |
      .moveRyR32 _ _ | .nop | .not _ _ | .or _ _ | .seb _ | .seh _ | .slti _ _ | .sltiu _ _ | .slt _ _ |
      .sltu _ _ | .xor _ _ | .zeb _ | .zeh _ | .asmacro _ _ _ _ _ _ | .brk _ | .sdbbp _ => false
  | .beqz _ _ | .bnez _ _ | .b _ | .bteqz _ | .btnez _ | .jalrc _ | .jalr _ | .jal _ | .jalx _ | .jrcRa |
      .jrcRx _ | .jrRa | .jrRx _ | .jalx16 _ => true
  | .div _ _ | .divu _ _ | .mfhi _ | .mflo _ | .mult _ _ | .multu _ _ | .lb _ _ _ | .lbu _ _ _ | .lh _ _ _
      | .lhu _ _ _ | .lwRxPc _ _ | .lwRxSp _ _ | .lwRyRx _ _ _ | .sb _ _ _ | .sh _ _ _ | .swRaSp _ |
      .swRxSp _ _ | .swRyRx _ _ _ | .restore _ _ _ _ | .restoreExt _ _ _ _ _ _ | .save _ _ _ _ |
      .saveExt _ _ _ _ _ _ | .sll _ _ _ | .sllv _ _ | .sra _ _ _ | .srav _ _ | .srl _ _ _ | .srlv _ _ =>
      false

/-- The ISA mode in which the instruction is decoded: MIPS16e, but for the 32-bit JALX (R85, R92). -/
def Instr.isa16 : Instr → Bool
  | .addiuRxImm _ _ | .addiuRxPcImm _ _ | .addiuRxSpImm _ _ | .addiuRyRxImm _ _ _ | .addiuSpImm _ |
      .addu _ _ _ | .neg _ _ | .subu _ _ _ | .and _ _ | .cmpi _ _ | .cmp _ _ | .li _ _ | .moveR32Rz _ _ |
      .moveRyR32 _ _ | .nop | .not _ _ | .or _ _ | .seb _ | .seh _ | .slti _ _ | .sltiu _ _ | .slt _ _ |
      .sltu _ _ | .xor _ _ | .zeb _ | .zeh _ | .asmacro _ _ _ _ _ _ | .brk _ | .sdbbp _ | .beqz _ _ |
      .bnez _ _ | .b _ | .bteqz _ | .btnez _ | .jalrc _ | .jalr _ | .jal _ => true
  | .jalx _ => false
  | .jrcRa | .jrcRx _ | .jrRa | .jrRx _ | .jalx16 _ | .div _ _ | .divu _ _ | .mfhi _ | .mflo _ | .mult _ _
      | .multu _ _ | .lb _ _ _ | .lbu _ _ _ | .lh _ _ _ | .lhu _ _ _ | .lwRxPc _ _ | .lwRxSp _ _ |
      .lwRyRx _ _ _ | .sb _ _ _ | .sh _ _ _ | .swRaSp _ | .swRxSp _ _ | .swRyRx _ _ _ | .restore _ _ _ _ |
      .restoreExt _ _ _ _ _ _ | .save _ _ _ _ | .saveExt _ _ _ _ _ _ | .sll _ _ _ | .sllv _ _ | .sra _ _ _
      | .srav _ _ | .srl _ _ _ | .srlv _ _ => true

/-! ## The encoder -/

/-- A halfword of the widths 5 3 3 5, the shape of every 16-bit figure and of every second halfword (R83, R84). -/
def Code.pack (op : BitVec 5) (rx ry : BitVec 3) (f : BitVec 5) : Half := op ++ rx ++ ry ++ f

/-- An RR halfword (R83). -/
def Code.rr (rx ry : BitVec 3) (f : BitVec 5) : Half := Code.pack 0b11101#5 rx ry f

/-- The EXTEND halfword of the widths 5 6 5 that carries `imm[10:5]` and `imm[15:11]` (R84). -/
def Code.extend16 (imm : BitVec 16) : Half := 0b11110#5 ++ imm.extractLsb' 5 6 ++ imm.extractLsb' 11 5

/-- An extended instruction with a 16-bit immediate (R84): EXT-RI, EXT-RRI, EXT-I, EXT-I8. -/
def Code.extImm (op : BitVec 5) (rx ry : BitVec 3) (imm : BitVec 16) : Code :=
  .pair (Code.extend16 imm) (Code.pack op rx ry (imm.extractLsb' 0 5))

/-- EXT-SHIFT with function `f` (R84). -/
def Code.extShift (rx ry : BitVec 3) (sa : BitVec 5) (f : BitVec 2) : Code :=
  .pair (0b11110#5 ++ sa ++ 0b000000#6) (Code.pack 0b00110#5 rx ry (0b000#3 ++ f))

/-- The SVRS halfword: I8 function 100 with bits `s`, `ra`, `s0`, `s1` and the low frame size (R83). -/
def Code.svrs (s ra s0 s1 : Bool) (framesize : BitVec 4) : Half :=
  Code.pack 0b01100#5 0b100#3 (BitVec.ofBool s ++ BitVec.ofBool ra ++ BitVec.ofBool s0) (BitVec.ofBool s1 ++ framesize)

/-- EXT-SVRS (R84). -/
def Code.extSvrs (s ra s0 s1 : Bool) (xsregs : BitVec 3) (aregs : BitVec 4) (framesize : BitVec 8) : Code :=
  .pair (0b11110#5 ++ xsregs ++ framesize.extractLsb' 4 4 ++ aregs) (Code.svrs s ra s0 s1 (framesize.extractLsb' 0 4))

/-- The JAL format with bit `x` (R84). -/
def Code.jalFormat (x : Bool) (target : BitVec 26) : Code :=
  .pair (0b00011#5 ++ BitVec.ofBool x ++ target.extractLsb' 16 5 ++ target.extractLsb' 21 5) (target.extractLsb' 0 16)

/-- The words of an instruction (R83 to R98). NOP is the word of MOVE $0, $16 (R101). -/
def encode : Instr → Code
  | .addiuRxImm rx imm => Code.extImm 0b01001#5 rx 0 imm
  | .addiuRxPcImm rx imm => Code.extImm 0b00001#5 rx 0 imm
  | .addiuRxSpImm rx imm => Code.extImm 0b00000#5 rx 0 imm
  | .addiuRyRxImm ry rx imm =>
    .pair (0b11110#5 ++ imm.extractLsb' 4 7 ++ imm.extractLsb' 11 4)
      (Code.pack 0b01000#5 rx ry (0b0#1 ++ imm.extractLsb' 0 4))
  | .addiuSpImm imm => Code.extImm 0b01100#5 0b011#3 0 imm
  | .addu rz rx ry => .half (Code.pack 0b11100#5 rx ry (rz ++ 0b01#2))
  | .neg rx ry => .half (Code.rr rx ry 0b01011#5)
  | .subu rz rx ry => .half (Code.pack 0b11100#5 rx ry (rz ++ 0b11#2))
  | .and rx ry => .half (Code.rr rx ry 0b01100#5)
  | .cmpi rx imm => Code.extImm 0b01110#5 rx 0 imm
  | .cmp rx ry => .half (Code.rr rx ry 0b01010#5)
  | .li rx imm => Code.extImm 0b01101#5 rx 0 imm
  | .moveR32Rz r32 rz => .half (Code.pack 0b01100#5 0b101#3 (r32.extractLsb' 0 3) (r32.extractLsb' 3 2 ++ rz))
  | .moveRyR32 ry r32 => .half (Code.pack 0b01100#5 0b111#3 ry r32)
  | .nop => .half 0x6500#16
  | .not rx ry => .half (Code.rr rx ry 0b01111#5)
  | .or rx ry => .half (Code.rr rx ry 0b01101#5)
  | .seb rx => .half (Code.rr rx 0b100#3 0b10001#5)
  | .seh rx => .half (Code.rr rx 0b101#3 0b10001#5)
  | .slti rx imm => Code.extImm 0b01010#5 rx 0 imm
  | .sltiu rx imm => Code.extImm 0b01011#5 rx 0 imm
  | .slt rx ry => .half (Code.rr rx ry 0b00010#5)
  | .sltu rx ry => .half (Code.rr rx ry 0b00011#5)
  | .xor rx ry => .half (Code.rr rx ry 0b01110#5)
  | .zeb rx => .half (Code.rr rx 0b000#3 0b10001#5)
  | .zeh rx => .half (Code.rr rx 0b001#3 0b10001#5)
  | .asmacro select p0 p1 p2 p3 p4 => .pair (Code.pack 0b11110#5 select p4 p3) (Code.pack 0b11100#5 p2 p1 p0)
  | .brk code => .half (Code.rr (code.extractLsb' 3 3) (code.extractLsb' 0 3) 0b00101#5)
  | .sdbbp code => .half (Code.rr (code.extractLsb' 3 3) (code.extractLsb' 0 3) 0b00001#5)
  | .beqz rx off => Code.extImm 0b00100#5 rx 0 off
  | .bnez rx off => Code.extImm 0b00101#5 rx 0 off
  | .b off => Code.extImm 0b00010#5 0 0 off
  | .bteqz off => Code.extImm 0b01100#5 0b000#3 0 off
  | .btnez off => Code.extImm 0b01100#5 0b001#3 0 off
  | .jalrc rx => .half (Code.rr rx 0b110#3 0b00000#5)
  | .jalr rx => .half (Code.rr rx 0b010#3 0b00000#5)
  | .jal target => Code.jalFormat false target
  | .jalx index => .mips32 (0b011101#6 ++ index)
  | .jrcRa => .half (Code.rr 0 0b101#3 0b00000#5)
  | .jrcRx rx => .half (Code.rr rx 0b100#3 0b00000#5)
  | .jrRa => .half (Code.rr 0 0b001#3 0b00000#5)
  | .jrRx rx => .half (Code.rr rx 0b000#3 0b00000#5)
  | .jalx16 target => Code.jalFormat true target
  | .div rx ry => .half (Code.rr rx ry 0b11010#5)
  | .divu rx ry => .half (Code.rr rx ry 0b11011#5)
  | .mfhi rx => .half (Code.rr rx 0 0b10000#5)
  | .mflo rx => .half (Code.rr rx 0 0b10010#5)
  | .mult rx ry => .half (Code.rr rx ry 0b11000#5)
  | .multu rx ry => .half (Code.rr rx ry 0b11001#5)
  | .lb ry off rx => Code.extImm 0b10000#5 rx ry off
  | .lbu ry off rx => Code.extImm 0b10100#5 rx ry off
  | .lh ry off rx => Code.extImm 0b10001#5 rx ry off
  | .lhu ry off rx => Code.extImm 0b10101#5 rx ry off
  | .lwRxPc rx off => Code.extImm 0b10110#5 rx 0 off
  | .lwRxSp rx off => Code.extImm 0b10010#5 rx 0 off
  | .lwRyRx ry off rx => Code.extImm 0b10011#5 rx ry off
  | .sb ry off rx => Code.extImm 0b11000#5 rx ry off
  | .sh ry off rx => Code.extImm 0b11001#5 rx ry off
  | .swRaSp off => Code.extImm 0b01100#5 0b010#3 0 off
  | .swRxSp rx off => Code.extImm 0b11010#5 rx 0 off
  | .swRyRx ry off rx => Code.extImm 0b11011#5 rx ry off
  | .restore ra s0 s1 framesize => .half (Code.svrs false ra s0 s1 framesize)
  | .restoreExt ra s0 s1 xsregs aregs framesize => Code.extSvrs false ra s0 s1 xsregs aregs framesize
  | .save ra s0 s1 framesize => .half (Code.svrs true ra s0 s1 framesize)
  | .saveExt ra s0 s1 xsregs aregs framesize => Code.extSvrs true ra s0 s1 xsregs aregs framesize
  | .sll rx ry sa => Code.extShift rx ry sa 0b00#2
  | .sllv ry rx => .half (Code.rr rx ry 0b00100#5)
  | .sra rx ry sa => Code.extShift rx ry sa 0b11#2
  | .srav ry rx => .half (Code.rr rx ry 0b00111#5)
  | .srl rx ry sa => Code.extShift rx ry sa 0b10#2
  | .srlv ry rx => .half (Code.rr rx ry 0b00110#5)

/-! ## Words numbered as spec/opcode_table.json numbers them -/

/-- The two halfwords of a table word (30_encoding R92: a 16-bit row is over the halfword, a 32-bit row over
`I32 = hw1 || hw2`, so hw1 is bits 31:16; log 29). A 16-bit instruction is followed by a zero halfword. -/
def tableHalves (nbits w : Nat) : Half × Half :=
  if nbits ≤ 16 then (BitVec.ofNat 16 w, 0) else (BitVec.ofNat 16 (w / 65536), BitVec.ofNat 16 w)

/-- Whether a table word is a 32-bit MIPS one, decoded only with ISAMode = 0: bits 31:26 are JALX (R85). No
MIPS16e instruction has those bits: as a halfword they begin a 16-bit CMPI, which is not in the source. -/
def tableIsMips32 (nbits w : Nat) : Bool := 16 < nbits && (BitVec.ofNat 32 w).extractLsb' 26 6 == 0b011101#6

/-- A table word as the hardware stores it. -/
def tableBytes (bigEndian : Bool) (nbits w : Nat) : List Byte :=
  if tableIsMips32 nbits w then wordToBytes bigEndian (BitVec.ofNat 32 w)
  else halfToBytes bigEndian (tableHalves nbits w).1 ++ halfToBytes bigEndian (tableHalves nbits w).2

/-- The instruction the decoder reads from a table word, laid out in the launch byte order. -/
def decodeTableWord (nbits w : Nat) : Option Instr :=
  match decodeBytes Cfg.launch.bigEndian (!tableIsMips32 nbits w) (tableBytes Cfg.launch.bigEndian nbits w) with
  | .ok (i, _) => some i
  | .error _ => none

end Sys2Proof
end

