-- ==== Sys2Proof/Machine/State.lean ====
section
/-! DEFINITION. The machine's state, plain data: everything the spec names (10_state, 20_memory, 42_system,
60_exceptions), the reasons a step stops, and the state at launch. -/

namespace Sys2Proof.Machine

/-- The bytes that differ from what an unlisted address reads as, addresses strictly rising (see `Memory.wf`). -/
abbrev Memory := List Host.Cell

/-- A pending jump (10_state R28): where it goes, the ISA mode there, and the register it came from, if any. -/
structure Delay where
  target : Word
  mode : Bool
  src : Option Gpr
  deriving DecidableEq, Repr

/-- The kind of a memory access (20_memory R57, R58). -/
inductive AccessKind where
  | load
  | store
  | fetch
  deriving DecidableEq, Repr

/-- The nine exception names of the source (60_exceptions R300). Nothing in the spec raises the two TLB names, TLB
Modified or Bus Error (R302). -/
inductive ExcKind where
  | addressError
  | tlbRefill
  | tlbInvalid
  | tlbModified
  | busError
  | breakpoint
  | reservedInstruction
  | debugBreakpoint
  | debugModeBreakpoint
  deriving DecidableEq, Repr

/-- The record `Exception(kind, epc, inDelaySlot, addr)` (60_exceptions R307). -/
structure ExcRecord where
  kind : ExcKind
  epc : Word
  inDelaySlot : Bool
  addr : Option Word
  deriving DecidableEq, Repr

/-- The places marked UNPREDICTABLE (10_state R30, R28; 46_save_restore R251). -/
inductive Unpredictable where
  /-- "32-bit instruction in a delay slot" -/
  | wideInDelaySlot
  /-- "branch or jump in a delay slot" -/
  | jumpInDelaySlot
  /-- "delay slot changed the jump register" -/
  | jumpRegisterChanged
  /-- "reserved aregs" -/
  | reservedAregs
  deriving DecidableEq, Repr

/-- Why an instruction has no meaning. Every refusal is safe: the hardware may go on. -/
inductive Refusal where
  /-- Raised by `exec` for an instruction this model has not reached. -/
  | notModelled (mnemonic : String)
  /-- Raised by the step on a halfword with no page (30_encoding R100). -/
  | notInSource16 (hw : Half)
  /-- Raised by the step on a 32-bit MIPS16e pair with no page (30_encoding R100, R105). -/
  | notInSource32 (w : Word)
  /-- Raised by the step with ISAMode = 0 on a word other than JALX (10_state R33). -/
  | mips32NotInSource (w : Word)
  /-- Raised by the step with ISAMode = 0 on a JALX in the delay slot of a JALX (43_branch_jump R190 (b), (c);
  log 17). -/
  | jalxInDelaySlot (w : Word)
  /-- Raised by JALX in MIPS16e format, whose meaning is not in the source (43_branch_jump R195, D8). -/
  | jalx16NotInSource
  /-- Raised by ASMACRO when `cfg.asmacro` has its macro: `ExecuteMacro` is "not defined by the source"
  (42_system R170). -/
  | macroNotInSource (select : BitVec 3)
  /-- Raised by the step if the bytes of an instruction are too few; the step always gives enough. -/
  | truncated
  deriving DecidableEq, Repr

/-- The whole state (10_state R20 to R34; INVENTORY.md lists each field with its rule and reset value). -/
structure State where
  /-- GPR 0 to 31 (10_state R20); read and written only through `State.readGpr` and `State.writeGpr`. -/
  gpr : Vector Word 32
  /-- HI and LO (10_state R27). -/
  hi : Word
  lo : Word
  /-- The address of the first halfword of the instruction to execute (10_state R25). -/
  pc : Word
  /-- ISAMode: true is MIPS16e, false is 32-bit MIPS (10_state R26). -/
  isaMode : Bool
  /-- The pending jump (10_state R28). -/
  delay : Option Delay
  /-- Debug.DM (10_state R29). -/
  debugDM : Bool
  /-- Debug.DExcCode (42_system R172; its width is PRESUMED, log 9). -/
  debugDExcCode : BitVec 5
  /-- DEPC (42_system R172; its width is PRESUMED, log 9). -/
  depc : Word
  /-- WatchHi and WatchLo (20_memory R64): named, and reached by no instruction of the source (log 9). -/
  watchHi : Word
  watchLo : Word
  /-- Memory (10_state R32). -/
  mem : Memory
  /-- The addresses stored to since launch, strictly rising (20_memory R63). -/
  written : List Nat
  /-- The outcome of the run, once an exception has been taken (60_exceptions R310). -/
  exc : Option ExcRecord
  /-- The model's own counter of the values drawn (00_scope R11; log 6). -/
  draws : Nat
  /-- The parameters of the step (10_state R32), never written. -/
  cfg : Cfg
  deriving DecidableEq, Repr

/-- Why the machine stops: the model faults of 60_exceptions R310, which are no behaviour of the hardware but the
edge of what the spec says. -/
inductive Fault where
  /-- Raised by the step's delay-slot tests and by SAVE and RESTORE (Extended) with `aregs` = 1111. Safe: the
  hardware does something the source calls UNPREDICTABLE. -/
  | unpredictable (why : Unpredictable)
  /-- Raised by a load, store or fetch not wholly inside a suitable region of `cfg.mem` (20_memory R57, D5). Safe:
  it stands for the exception the platform would raise. -/
  | unmappedAccess (addr : Word) (kind : AccessKind)
  /-- The same, raised by a transfer of SAVE or RESTORE. `left` is the state it leaves: the transfers before it stand
  and GPR 29 holds its old value (46_save_restore R257, D24). Safe. -/
  | unmappedTransfer (addr : Word) (kind : AccessKind) (left : State)
  /-- Raised by a fetch that touches a byte stored to since launch (20_memory R63, D20). Safe. -/
  | fetchOfWrittenMemory (addr : Word)
  /-- Raised by a step from a state in which an exception has been taken: "no further step is taken", since the
  source gives no handler address (60_exceptions R310, D12). Safe. -/
  | exceptionTaken (e : ExcRecord)
  deriving DecidableEq, Repr

/-- The launch state (10_state R34, 70_reset R340). The spec fixes isaMode, delay, debugDM and the empty written
set; GPR 1 to 31, HI, LO (log 1), pc (log 2), cfg (log 3), the debug and watch registers (log 9) and draws (log 6)
are values the log names. -/
def State.reset : State :=
  { gpr := Vector.replicate 32 0, hi := 0, lo := 0, pc := 0x00400000#32, isaMode := true, delay := none,
    debugDM := false, debugDExcCode := 0, depc := 0, watchHi := 0, watchLo := 0,
    mem := [], written := [], exc := none, draws := 0, cfg := Cfg.launch }

end Sys2Proof.Machine
end

