-- ==== Sys2Proof/Machine/Memory.lean ====
section
/-! DEFINITION. The sparse byte memory and the set of written addresses, each in one canonical form. -/

namespace Sys2Proof.Machine

/-- DESIGN CHOICE (log 4), unsafe: what a byte nothing has written, and the launch image does not list, reads as. -/
def Memory.unlisted : Byte := 0

/-- The byte at an address. -/
def Memory.read (m : Memory) (a : Nat) : Byte :=
  match m with
  | [] => Memory.unlisted
  | (k, v) :: rest => if k = a then v else Memory.read rest a

/-- Forgets what is listed at an address. -/
def Memory.erase (m : Memory) (a : Nat) : Memory := m.filter fun c => c.1 != a

/-- Lists a byte before the first higher address. -/
def Memory.insert (m : Memory) (a : Nat) (b : Byte) : Memory :=
  match m with
  | [] => [(a, b)]
  | (k, v) :: rest => if a < k then (a, b) :: (k, v) :: rest else (k, v) :: Memory.insert rest a b

/-- Writes one byte, keeping the addresses rising and listing no byte equal to `Memory.unlisted`. -/
def Memory.write (m : Memory) (a : Nat) (b : Byte) : Memory :=
  if b = Memory.unlisted then Memory.erase m a else Memory.insert (Memory.erase m a) a b

/-- Whether every address listed is above `a`. -/
def Memory.above (a : Nat) (m : Memory) : Bool := m.all fun c => a < c.1

/-- The canonical form: addresses strictly rising, none beyond 2^32, no byte equal to `Memory.unlisted`. -/
def Memory.wf : Memory → Bool
  | [] => true
  | (k, v) :: rest => Memory.above k rest && decide (k < 4294967296) && v != Memory.unlisted && Memory.wf rest

/-- Adds an address to a strictly rising list. -/
def WriteSet.insert (ws : List Nat) (a : Nat) : List Nat :=
  match ws with
  | [] => [a]
  | k :: rest => if a < k then a :: k :: rest else if a = k then k :: rest else k :: WriteSet.insert rest a

/-- The canonical form of the written set: strictly rising, none beyond 2^32. -/
def WriteSet.wf : List Nat → Bool
  | [] => true
  | k :: rest => rest.all (fun x => k < x) && decide (k < 4294967296) && WriteSet.wf rest

end Sys2Proof.Machine
end

