-- ==== Sys2Proof/Machine/Operands.lean ====
section
/-! DEFINITION. Operand forms: register fields, immediates, jump and branch targets, the SAVE and RESTORE tables. -/

namespace Sys2Proof.Machine

/-- `Xlat` (10_state R22). Field 000 is from the source, the others are PRESUMED (D6, GK3; log 10). -/
def xlat (f : BitVec 3) : Gpr :=
  match f.toNat with
  | 0 => 16
  | 1 => 17
  | 2 => 2
  | 3 => 3
  | 4 => 4
  | 5 => 5
  | 6 => 6
  | _ => 7

/-- The register a 5-bit field names directly (30_encoding R90). -/
def direct (r32 : BitVec 5) : Gpr := r32.toFin

/-- GPR 24, "special register T" (10_state R23). -/
abbrev regT : Gpr := 24
/-- GPR 29, the stack pointer. -/
abbrev regSp : Gpr := 29
/-- GPR 31, the return address register. -/
abbrev regRa : Gpr := 31

/-- `sext_32` of a 16-bit immediate (30_encoding R89). -/
abbrev sext16 (imm : BitVec 16) : Word := imm.signExtend 32
/-- `sext_32` of the 15-bit immediate of ADDIU ry, rx, imm. -/
abbrev sext15 (imm : BitVec 15) : Word := imm.signExtend 32
/-- `zext_32` of a 16-bit immediate: CMPI and LI. -/
abbrev zext16 (imm : BitVec 16) : Word := imm.setWidth 32

/-- `pc[31:2] || 00`, the base of the PC-relative forms (40_add_sub R121, 45_load_store R225). -/
def pcBase (pc : Word) : Word := pc.extractLsb' 2 30 ++ 0b00#2

/-- `BranchTarget(pc, off16)` (43_branch_jump R180). -/
def branchTarget (pc : Word) (off : BitVec 16) : Word := pc + 4 + (off ++ 0b0#1).signExtend 32

/-- `JumpTarget(t) = t[31:1] || 0` (43_branch_jump R181). -/
def jumpTarget (t : Word) : Word := t.extractLsb' 1 31 ++ 0b0#1
/-- `JumpMode(t) = t[0]` (43_branch_jump R181). -/
def jumpMode (t : Word) : Bool := t.getLsbD 0
/-- `LinkValue(k) = (pc + k)[31:1] || ISAMode` (43_branch_jump R181). -/
def linkValue (pc : Word) (mode : Bool) (k : Word) : Word := (pc + k).extractLsb' 1 31 ++ BitVec.ofBool mode
/-- The PC-region target: `(pc + 4)[31:28] || target || 00` (43_branch_jump R189, R190). -/
def regionTarget (pc : Word) (target : BitVec 26) : Word := (pc + 4).extractLsb' 28 4 ++ target ++ 0b00#2

/-- The frame of the 16-bit SAVE and RESTORE in bytes: 0 means 128 (46_save_restore R253, R255). -/
def frameBytes4 (framesize : BitVec 4) : Word :=
  if framesize = 0 then 128 else framesize.setWidth 32 * 8
/-- The frame of the extended forms in bytes: 0 means 0 (46_save_restore R254, R256). -/
def frameBytes8 (framesize : BitVec 8) : Word := framesize.setWidth 32 * 8

/-- The `aregs` table (46_save_restore R251): how many argument and how many static registers; `none` is the
reserved 1111. -/
def aregsTable (aregs : BitVec 4) : Option (Nat × Nat) :=
  match aregs.toNat with
  | 0b0000 => some (0, 0)
  | 0b0001 => some (0, 1)
  | 0b0010 => some (0, 2)
  | 0b0011 => some (0, 3)
  | 0b0100 => some (1, 0)
  | 0b0101 => some (1, 1)
  | 0b0110 => some (1, 2)
  | 0b0111 => some (1, 3)
  | 0b1000 => some (2, 0)
  | 0b1001 => some (2, 1)
  | 0b1010 => some (2, 2)
  | 0b1011 => some (0, 4)
  | 0b1100 => some (3, 0)
  | 0b1101 => some (3, 1)
  | 0b1110 => some (4, 0)
  | _ => none

/-- The argument registers in ascending order: a0, a1, a2, a3 (46_save_restore R251). -/
def argRegs (args : Nat) : List Gpr := [4, 5, 6, 7].take args
/-- The static registers in the order of transfer: GPR 7, 6, 5, 4 (46_save_restore R251, R254). -/
def staticRegs (astatic : Nat) : List Gpr := [7, 6, 5, 4].take astatic
/-- `XS(n)`: the first n of 18, 19, 20, 21, 22, 23, 30, in descending order (46_save_restore R252). -/
def xsRegs (xsregs : BitVec 3) : List Gpr := ([18, 19, 20, 21, 22, 23, 30].take xsregs.toNat).reverse

/-- The registers SAVE stores and RESTORE loads below the frame's top, in the order of transfer: GPR 31, the
`xsregs` registers, GPR 17, GPR 16, the statics (46_save_restore R253 to R256). -/
def frameRegs (ra s0 s1 : Bool) (xs statics : List Gpr) : List Gpr :=
  (if ra then [regRa] else []) ++ xs ++ (if s1 then [17] else []) ++ (if s0 then [16] else []) ++ statics

end Sys2Proof.Machine
end

