-- ==== Sys2Proof/Machine/Flags.lean ====
section
/-! DEFINITION. The machine has no status flags (10_state R31): a comparison's whole result is a 32-bit value that
goes to GPR 24 (T). These are the values. -/

namespace Sys2Proof.Machine

/-- `0^31 || 1` where the condition holds, `0^32` where it does not (41_logical_move_compare R151 to R154). -/
def boolWord (c : Bool) : Word := if c then 1 else 0

/-- `signed(a) < signed(b)`, of the true integers (R151, R153). -/
def lessSigned (a b : Word) : Bool := decide (a.toInt < b.toInt)

/-- `unsigned(a) < unsigned(b)` (R152, R154). -/
def lessUnsigned (a b : Word) : Bool := decide (a.toNat < b.toNat)

/-- What CMP and CMPI leave in T: zero exactly when the operands are equal (R141, R142). -/
def compareWord (a b : Word) : Word := a ^^^ b

end Sys2Proof.Machine
end

