-- ==== Sys2Proof/Machine/Ops.lean ====
section
/-! DEFINITION. The named operations over registers and memory, and the one operation that takes an exception. -/

namespace Sys2Proof.Machine

/-! ## Registers -/

/-- `x[r]`: GPR 0 reads as 32 zero bits (10_state R21; PRESUMED by D15, log 11). -/
def State.readGpr (s : State) (r : Gpr) : Word := if r = 0 then 0 else s.gpr[r]

/-- `x[r] <- v`: no effect for GPR 0 (10_state R21). -/
def State.writeGpr (s : State) (r : Gpr) (v : Word) : State :=
  if r = 0 then s else { s with gpr := s.gpr.set r v }

/-- HI and LO are written together (44_muldiv R210 to R215). -/
def State.writeHiLo (s : State) (hi lo : Word) : State := { s with hi := hi, lo := lo }

/-- HI and LO receive two values under no law: `LO <- draw_32() ; HI <- draw_32()` (44_muldiv R210, R211). -/
def State.drawHiLo (s : State) : State :=
  { s with lo := Config.draw32 s.draws, hi := Config.draw32 (s.draws + 1), draws := s.draws + 2 }

/-- `pc <- pc + len`, modulo 2^32 (10_state R30 line 6, D21). -/
def State.advance (s : State) (len : Word) : State := { s with pc := s.pc + len }

/-- A change of pc and ISAMode at once: branches and compact jumps (43_branch_jump R180, R181). -/
def State.jumpNow (s : State) (target : Word) (mode : Bool) : State := { s with pc := target, isaMode := mode }

/-- A jump with a delay slot: the target is remembered and the instruction after the jump comes next
(10_state R28; 43_branch_jump R188 to R190, R193, R194). -/
def State.jumpAfterSlot (s : State) (len target : Word) (mode : Bool) (src : Option Gpr) : State :=
  { s with pc := s.pc + len, delay := some ⟨target, mode, src⟩ }

/-! ## Taking an exception -/

/-- `raise E` (60_exceptions R310): the pending jump is discarded, pc and ISAMode stay, nothing else is written,
and the outcome record of R307 holds the kind, the pc of the raising instruction, whether the step began with a
pending jump, and the address where there is one. No handler entry and no return are described (D12, R312). -/
def State.raise (s : State) (kind : ExcKind) (addr : Option Word) : State :=
  { s with delay := none, exc := some ⟨kind, s.pc, s.delay.isSome, addr⟩ }

/-- A debug exception: as `State.raise`, and DEPC takes a value that is not in the source (42_system R172 (b);
log 7). -/
def State.raiseDebug (s : State) (kind : ExcKind) : State :=
  { s.raise kind none with depc := Config.depcValue s.pc s.isaMode s.delay.isSome }

/-- How a rule ends early: an architectural exception, or a model fault. -/
inductive Trap where
  | raise (kind : ExcKind) (addr : Option Word)
  | fault (f : Fault)
  deriving DecidableEq, Repr

/-- The outcome of a rule that ended early, from the state as it then stood (60_exceptions R310). -/
def State.trap (s : State) : Trap → Host.Outcome State Fault Refusal
  | .raise kind addr => .next (s.raise kind addr)
  | .fault f => .fault f

/-- The same for SAVE and RESTORE: a transfer that is not admitted reports the state with the transfers before it
standing (46_save_restore R257, D24). The pending jump is out of it, as it is whenever a rule runs (10_state R30
line 3). -/
def State.trapFrame (s : State) : Trap → Host.Outcome State Fault Refusal
  | .raise kind addr => .next (s.raise kind addr)
  | .fault (.unmappedAccess addr kind) => .fault (.unmappedTransfer addr kind { s with delay := none })
  | .fault f => .fault f

/-! ## Memory -/

/-- Whether `n` bytes from `addr` lie wholly inside the region (20_memory R57). -/
def Region.covers (r : Region) (addr : Word) (n : Nat) : Bool :=
  decide (r.base ≤ addr.toNat) && decide (addr.toNat + n ≤ r.base + r.size)

/-- `Admit(addr, n, kind)` (20_memory R57, D5): some region covers the access, a writable one for a store. -/
def admits (cfg : Cfg) (addr : Word) (n : Nat) (kind : AccessKind) : Bool :=
  cfg.mem.any fun r => Region.covers r addr n && (r.writable || kind != .store)

/-- The byte `M[addr]`. -/
def State.readByte (s : State) (addr : Word) : Byte := Memory.read s.mem addr.toNat

/-- `value(addr, 2)` (20_memory R52). -/
def State.readHalf (s : State) (addr : Word) : Half :=
  bytesToHalf s.cfg.bigEndian (s.readByte addr) (s.readByte (addr + 1))

/-- `value(addr, 4)` (20_memory R52). -/
def State.readWord (s : State) (addr : Word) : Word :=
  bytesToWord s.cfg.bigEndian (s.readByte addr) (s.readByte (addr + 1)) (s.readByte (addr + 2)) (s.readByte (addr + 3))

/-- `M[addr] <- b`; the address joins the set of bytes written since launch (20_memory R63). -/
def State.writeByte (s : State) (addr : Word) (b : Byte) : State :=
  { s with mem := Memory.write s.mem addr.toNat b, written := WriteSet.insert s.written addr.toNat }

/-- Stores bytes at rising addresses. -/
def State.writeBytes (s : State) (addr : Word) : List Byte → State
  | [] => s
  | b :: bs => State.writeBytes (s.writeByte addr b) (addr + 1) bs

/-- "If the least-significant bit of the address is non-zero" (20_memory R55). -/
def halfAligned (addr : Word) : Bool := addr.extractLsb' 0 1 == 0
/-- "If either of the 2 least-significant bits of the address is non-zero" (20_memory R55). -/
def wordAligned (addr : Word) : Bool := addr.extractLsb' 0 2 == 0

/-- `MemRead` and `MemWrite` pass only what `Admit` admits (20_memory R56, R57). -/
def State.checkAdmit (s : State) (addr : Word) (n : Nat) (kind : AccessKind) : Except Trap Unit :=
  if admits s.cfg addr n kind then .ok () else .error (.fault (.unmappedAccess addr kind))

/-- The alignment test comes before `Admit` (20_memory R55, 60_exceptions R309). -/
def State.checkAccess (s : State) (aligned : Bool) (addr : Word) (n : Nat) (kind : AccessKind) : Except Trap Unit :=
  if aligned then s.checkAdmit addr n kind else .error (.raise .addressError (some addr))

/-- A byte load: no alignment (20_memory R55). -/
def State.loadByte (s : State) (addr : Word) : Except Trap Byte :=
  match s.checkAccess true addr 1 .load with
  | .error t => .error t
  | .ok _ => .ok (s.readByte addr)

/-- A halfword load. -/
def State.loadHalf (s : State) (addr : Word) : Except Trap Half :=
  match s.checkAccess (halfAligned addr) addr 2 .load with
  | .error t => .error t
  | .ok _ => .ok (s.readHalf addr)

/-- A word load; also `LoadStackWord` (46_save_restore R250). -/
def State.loadWord (s : State) (addr : Word) : Except Trap Word :=
  match s.checkAccess (wordAligned addr) addr 4 .load with
  | .error t => .error t
  | .ok _ => .ok (s.readWord addr)

/-- A byte store. -/
def State.storeByte (s : State) (addr : Word) (b : Byte) : Except Trap State :=
  match s.checkAccess true addr 1 .store with
  | .error t => .error t
  | .ok _ => .ok (s.writeBytes addr [b])

/-- A halfword store. -/
def State.storeHalf (s : State) (addr : Word) (h : Half) : Except Trap State :=
  match s.checkAccess (halfAligned addr) addr 2 .store with
  | .error t => .error t
  | .ok _ => .ok (s.writeBytes addr (halfToBytes s.cfg.bigEndian h))

/-- A word store; also `StoreStackWord` (46_save_restore R250). -/
def State.storeWord (s : State) (addr : Word) (w : Word) : Except Trap State :=
  match s.checkAccess (wordAligned addr) addr 4 .store with
  | .error t => .error t
  | .ok _ => .ok (s.writeBytes addr (wordToBytes s.cfg.bigEndian w))

/-! ## How a rule ends -/

/-- A rule that writes one register and falls to the next instruction. -/
def State.setAndAdvance (s : State) (r : Gpr) (v : Word) (len : Word) : Host.Outcome State Fault Refusal :=
  .next ((s.writeGpr r v).advance len)

/-- A load: "a load that raises writes no register" (45_load_store R220). -/
def State.finishLoad (s : State) (r : Gpr) : Except Trap Word → Host.Outcome State Fault Refusal
  | .error t => s.trap t
  | .ok v => s.setAndAdvance r v 4

/-- A store: "a store that raises writes no memory" (45_load_store R220). -/
def State.finishStore (s : State) : Except Trap State → Host.Outcome State Fault Refusal
  | .error t => s.trap t
  | .ok s' => .next (s'.advance 4)

/-- A conditional branch: taken, or the next instruction (43_branch_jump R180). -/
def State.branchIf (s : State) (c : Bool) (off : BitVec 16) : Host.Outcome State Fault Refusal :=
  .next (if c then s.jumpNow (branchTarget s.pc off) s.isaMode else s.advance 4)

/-! ## The word transfers of SAVE and RESTORE -/

/-- Loads registers from falling addresses below `top`, in order. On a trap the registers already loaded keep
their new values (46_save_restore R257, D24): the state that came with the trap has them. -/
def State.loadFrame (s : State) (top : Word) : List Gpr → Except (Trap × State) State
  | [] => .ok s
  | r :: rs =>
    match s.loadWord (top - 4) with
    | .error t => .error (t, s)
    | .ok v => State.loadFrame (s.writeGpr r v) (top - 4) rs

/-- Stores registers at falling addresses below `top`, in order; on a trap the words already stored stand. -/
def State.storeFrame (s : State) (top : Word) : List Gpr → Except (Trap × State) State
  | [] => .ok s
  | r :: rs =>
    match s.storeWord (top - 4) (s.readGpr r) with
    | .error t => .error (t, s)
    | .ok s' => State.storeFrame s' (top - 4) rs

/-- Stores the argument registers at rising addresses from `bottom` (46_save_restore R256). -/
def State.storeArgs (s : State) (bottom : Word) : List Gpr → Except (Trap × State) State
  | [] => .ok s
  | r :: rs =>
    match s.storeWord bottom (s.readGpr r) with
    | .error t => .error (t, s)
    | .ok s' => State.storeArgs s' (bottom + 4) rs

/-- The end of SAVE and RESTORE: GPR 29 is written last, and not at all after a trap (46_save_restore R257). -/
def finishFrame (sp len : Word) : Except (Trap × State) State → Host.Outcome State Fault Refusal
  | .error (t, s) => s.trapFrame t
  | .ok s => s.setAndAdvance regSp sp len

/-- RESTORE of the registers `regs` from a frame of `size` bytes (46_save_restore R253, R254). -/
def State.restoreFrame (s : State) (size len : Word) (regs : List Gpr) : Host.Outcome State Fault Refusal :=
  finishFrame (s.readGpr regSp + size) len (s.loadFrame (s.readGpr regSp + size) regs)

/-- SAVE of the arguments `args` upward and the registers `regs` downward from the stack pointer
(46_save_restore R255, R256). -/
def State.saveFrame (s : State) (size len : Word) (args regs : List Gpr) : Host.Outcome State Fault Refusal :=
  finishFrame (s.readGpr regSp - size) len
    (match s.storeArgs (s.readGpr regSp) args with
    | .error e => .error e
    | .ok s' => s'.storeFrame (s.readGpr regSp) regs)

end Sys2Proof.Machine
end

