-- ==== Sys2Proof/Machine/AddSub.lean ====
section
/-! DEFINITION. Addition and subtraction (40_add_sub), all modulo 2^32, none trapping. -/

namespace Sys2Proof.Machine

/-- ADDIU rx, immediate (R120). -/
def execAddiuRxImm (rx : BitVec 3) (imm : BitVec 16) (s : State) : Host.Outcome State Fault Refusal :=
  s.setAndAdvance (xlat rx) (s.readGpr (xlat rx) + sext16 imm) 4

/-- ADDIU rx, pc, immediate (R121): the base is pc with its two low bits cleared. -/
def execAddiuRxPcImm (rx : BitVec 3) (imm : BitVec 16) (s : State) : Host.Outcome State Fault Refusal :=
  s.setAndAdvance (xlat rx) (pcBase s.pc + sext16 imm) 4

/-- ADDIU rx, sp, immediate (R122). -/
def execAddiuRxSpImm (rx : BitVec 3) (imm : BitVec 16) (s : State) : Host.Outcome State Fault Refusal :=
  s.setAndAdvance (xlat rx) (s.readGpr regSp + sext16 imm) 4

/-- ADDIU ry, rx, immediate (R123): a 15-bit immediate. -/
def execAddiuRyRxImm (ry rx : BitVec 3) (imm : BitVec 15) (s : State) : Host.Outcome State Fault Refusal :=
  s.setAndAdvance (xlat ry) (s.readGpr (xlat rx) + sext15 imm) 4

/-- ADDIU sp, immediate (R124). -/
def execAddiuSpImm (imm : BitVec 16) (s : State) : Host.Outcome State Fault Refusal :=
  s.setAndAdvance regSp (s.readGpr regSp + sext16 imm) 4

/-- ADDU rz, rx, ry (R125). -/
def execAddu (rz rx ry : BitVec 3) (s : State) : Host.Outcome State Fault Refusal :=
  s.setAndAdvance (xlat rz) (s.readGpr (xlat rx) + s.readGpr (xlat ry)) 2

/-- NEG rx, ry (R126). -/
def execNeg (rx ry : BitVec 3) (s : State) : Host.Outcome State Fault Refusal :=
  s.setAndAdvance (xlat rx) (0 - s.readGpr (xlat ry)) 2

/-- SUBU rz, rx, ry (R127). -/
def execSubu (rz rx ry : BitVec 3) (s : State) : Host.Outcome State Fault Refusal :=
  s.setAndAdvance (xlat rz) (s.readGpr (xlat rx) - s.readGpr (xlat ry)) 2

end Sys2Proof.Machine
end

