-- ==== Sys2Proof/Machine/Branch.lean ====
section
/-! DEFINITION. Branches and jumps (43_branch_jump). -/

namespace Sys2Proof.Machine

/-- BEQZ rx, offset (R182). -/
def execBeqz (rx : BitVec 3) (off : BitVec 16) (s : State) : Host.Outcome State Fault Refusal :=
  s.branchIf (s.readGpr (xlat rx) == 0) off

/-- BNEZ rx, offset (R183). -/
def execBnez (rx : BitVec 3) (off : BitVec 16) (s : State) : Host.Outcome State Fault Refusal :=
  s.branchIf (s.readGpr (xlat rx) != 0) off

/-- B offset (R184). -/
def execB (off : BitVec 16) (s : State) : Host.Outcome State Fault Refusal :=
  s.branchIf true off

/-- BTEQZ offset (R185). -/
def execBteqz (off : BitVec 16) (s : State) : Host.Outcome State Fault Refusal :=
  s.branchIf (s.readGpr regT == 0) off

/-- BTNEZ offset (R186). -/
def execBtnez (off : BitVec 16) (s : State) : Host.Outcome State Fault Refusal :=
  s.branchIf (s.readGpr regT != 0) off

/-- JALRC ra, rx (R187): links pc + 2, no delay slot. -/
def execJalrc (rx : BitVec 3) (s : State) : Host.Outcome State Fault Refusal :=
  let t := s.readGpr (xlat rx)
  .next ((s.writeGpr regRa (linkValue s.pc s.isaMode 2)).jumpNow (jumpTarget t) (jumpMode t))

/-- JALR ra, rx (R188): links pc + 4, past the delay slot. -/
def execJalr (rx : BitVec 3) (s : State) : Host.Outcome State Fault Refusal :=
  let t := s.readGpr (xlat rx)
  .next ((s.writeGpr regRa (linkValue s.pc s.isaMode 4)).jumpAfterSlot 2 (jumpTarget t) (jumpMode t) (some (xlat rx)))

/-- JAL target (R189): links pc + 6 and keeps ISAMode. -/
def execJal (target : BitVec 26) (s : State) : Host.Outcome State Fault Refusal :=
  .next ((s.writeGpr regRa (linkValue s.pc s.isaMode 6)).jumpAfterSlot 4 (regionTarget s.pc target) s.isaMode none)

/-- JALX target, 32-bit format (R190): links pc + 8 and toggles ISAMode (log 38: 70_reset R351 says pc + 6). -/
def execJalx (index : BitVec 26) (s : State) : Host.Outcome State Fault Refusal :=
  .next ((s.writeGpr regRa (s.pc + 8)).jumpAfterSlot 4 (regionTarget s.pc index) (!s.isaMode) none)

/-- JRC ra (R191). -/
def execJrcRa (s : State) : Host.Outcome State Fault Refusal :=
  let t := s.readGpr regRa
  .next (s.jumpNow (jumpTarget t) (jumpMode t))

/-- JRC rx (R192). -/
def execJrcRx (rx : BitVec 3) (s : State) : Host.Outcome State Fault Refusal :=
  let t := s.readGpr (xlat rx)
  .next (s.jumpNow (jumpTarget t) (jumpMode t))

/-- JR ra (R193). -/
def execJrRa (s : State) : Host.Outcome State Fault Refusal :=
  let t := s.readGpr regRa
  .next (s.jumpAfterSlot 2 (jumpTarget t) (jumpMode t) (some regRa))

/-- JR rx (R194). -/
def execJrRx (rx : BitVec 3) (s : State) : Host.Outcome State Fault Refusal :=
  let t := s.readGpr (xlat rx)
  .next (s.jumpAfterSlot 2 (jumpTarget t) (jumpMode t) (some (xlat rx)))

/-- JALX in MIPS16e format (R195): "Its meaning is therefore not in the source ... and the model refuses it". -/
def execJalx16 (_target : BitVec 26) (_s : State) : Host.Outcome State Fault Refusal :=
  .refused .jalx16NotInSource

end Sys2Proof.Machine
end

