-- ==== Sys2Proof/Machine/LoadStore.lean ====
section
/-! DEFINITION. Loads and stores (45_load_store): extended forms with an unscaled signed byte offset. -/

namespace Sys2Proof.Machine

/-- `vAddr = x[Xlat(rx)] + sext_32(off16)` (R220). -/
abbrev State.addrRx (s : State) (rx : BitVec 3) (off : BitVec 16) : Word := s.readGpr (xlat rx) + sext16 off
/-- `vAddr = x[29] + sext_32(off16)` (R226, R230, R231). -/
abbrev State.addrSp (s : State) (off : BitVec 16) : Word := s.readGpr regSp + sext16 off
/-- `vAddr = (pc[31:2] || 00) + sext_32(off16)` (R225). -/
abbrev State.addrPc (s : State) (off : BitVec 16) : Word := pcBase s.pc + sext16 off

/-- LB ry, offset(rx) (R221). -/
def execLb (ry : BitVec 3) (off : BitVec 16) (rx : BitVec 3) (s : State) : Host.Outcome State Fault Refusal :=
  s.finishLoad (xlat ry) ((s.loadByte (s.addrRx rx off)).map (·.signExtend 32))

/-- LBU ry, offset(rx) (R222). -/
def execLbu (ry : BitVec 3) (off : BitVec 16) (rx : BitVec 3) (s : State) : Host.Outcome State Fault Refusal :=
  s.finishLoad (xlat ry) ((s.loadByte (s.addrRx rx off)).map (·.setWidth 32))

/-- LH ry, offset(rx) (R223). -/
def execLh (ry : BitVec 3) (off : BitVec 16) (rx : BitVec 3) (s : State) : Host.Outcome State Fault Refusal :=
  s.finishLoad (xlat ry) ((s.loadHalf (s.addrRx rx off)).map (·.signExtend 32))

/-- LHU ry, offset(rx) (R224). -/
def execLhu (ry : BitVec 3) (off : BitVec 16) (rx : BitVec 3) (s : State) : Host.Outcome State Fault Refusal :=
  s.finishLoad (xlat ry) ((s.loadHalf (s.addrRx rx off)).map (·.setWidth 32))

/-- LW rx, offset(pc) (R225): a data load (20_memory R64). -/
def execLwRxPc (rx : BitVec 3) (off : BitVec 16) (s : State) : Host.Outcome State Fault Refusal :=
  s.finishLoad (xlat rx) (s.loadWord (s.addrPc off))

/-- LW rx, offset(sp) (R226; the destination is rx by C1). -/
def execLwRxSp (rx : BitVec 3) (off : BitVec 16) (s : State) : Host.Outcome State Fault Refusal :=
  s.finishLoad (xlat rx) (s.loadWord (s.addrSp off))

/-- LW ry, offset(rx) (R227). -/
def execLwRyRx (ry : BitVec 3) (off : BitVec 16) (rx : BitVec 3) (s : State) : Host.Outcome State Fault Refusal :=
  s.finishLoad (xlat ry) (s.loadWord (s.addrRx rx off))

/-- SB ry, offset(rx) (R228; the data register is ry by C3). -/
def execSb (ry : BitVec 3) (off : BitVec 16) (rx : BitVec 3) (s : State) : Host.Outcome State Fault Refusal :=
  s.finishStore (s.storeByte (s.addrRx rx off) ((s.readGpr (xlat ry)).extractLsb' 0 8))

/-- SH ry, offset(rx) (R229). -/
def execSh (ry : BitVec 3) (off : BitVec 16) (rx : BitVec 3) (s : State) : Host.Outcome State Fault Refusal :=
  s.finishStore (s.storeHalf (s.addrRx rx off) ((s.readGpr (xlat ry)).extractLsb' 0 16))

/-- SW ra, offset(sp) (R230). -/
def execSwRaSp (off : BitVec 16) (s : State) : Host.Outcome State Fault Refusal :=
  s.finishStore (s.storeWord (s.addrSp off) (s.readGpr regRa))

/-- SW rx, offset(sp) (R231). -/
def execSwRxSp (rx : BitVec 3) (off : BitVec 16) (s : State) : Host.Outcome State Fault Refusal :=
  s.finishStore (s.storeWord (s.addrSp off) (s.readGpr (xlat rx)))

/-- SW ry, offset(rx) (R232). -/
def execSwRyRx (ry : BitVec 3) (off : BitVec 16) (rx : BitVec 3) (s : State) : Host.Outcome State Fault Refusal :=
  s.finishStore (s.storeWord (s.addrRx rx off) (s.readGpr (xlat ry)))

end Sys2Proof.Machine
end

