-- ==== Sys2Proof/Machine/Logical.lean ====
section
/-! DEFINITION. Logical, move, compare, set and extend instructions (41_logical_move_compare). -/

namespace Sys2Proof.Machine

/-- AND rx, ry (R140). -/
def execAnd (rx ry : BitVec 3) (s : State) : Host.Outcome State Fault Refusal :=
  s.setAndAdvance (xlat rx) (s.readGpr (xlat rx) &&& s.readGpr (xlat ry)) 2

/-- CMPI rx, immediate (R141): the immediate is zero-extended. -/
def execCmpi (rx : BitVec 3) (imm : BitVec 16) (s : State) : Host.Outcome State Fault Refusal :=
  s.setAndAdvance regT (compareWord (s.readGpr (xlat rx)) (zext16 imm)) 4

/-- CMP rx, ry (R142). -/
def execCmp (rx ry : BitVec 3) (s : State) : Host.Outcome State Fault Refusal :=
  s.setAndAdvance regT (compareWord (s.readGpr (xlat ry)) (s.readGpr (xlat rx))) 2

/-- LI rx, immediate (R143): the immediate is zero-extended. -/
def execLi (rx : BitVec 3) (imm : BitVec 16) (s : State) : Host.Outcome State Fault Refusal :=
  s.setAndAdvance (xlat rx) (zext16 imm) 4

/-- MOVE r32, rz (R144): no effect when r32 = 0. -/
def execMoveR32Rz (r32 : BitVec 5) (rz : BitVec 3) (s : State) : Host.Outcome State Fault Refusal :=
  s.setAndAdvance (direct r32) (s.readGpr (xlat rz)) 2

/-- MOVE ry, r32 (R145; the destination is ry by C2). -/
def execMoveRyR32 (ry : BitVec 3) (r32 : BitVec 5) (s : State) : Host.Outcome State Fault Refusal :=
  s.setAndAdvance (xlat ry) (s.readGpr (direct r32)) 2

/-- NOP (R146): "the state after differs from the state before only in pc". -/
def execNop (s : State) : Host.Outcome State Fault Refusal :=
  .next (s.advance 2)

/-- NOT rx, ry (R147). -/
def execNot (rx ry : BitVec 3) (s : State) : Host.Outcome State Fault Refusal :=
  s.setAndAdvance (xlat rx) (~~~ s.readGpr (xlat ry)) 2

/-- OR rx, ry (R148). -/
def execOr (rx ry : BitVec 3) (s : State) : Host.Outcome State Fault Refusal :=
  s.setAndAdvance (xlat rx) (s.readGpr (xlat rx) ||| s.readGpr (xlat ry)) 2

/-- SEB rx (R149). -/
def execSeb (rx : BitVec 3) (s : State) : Host.Outcome State Fault Refusal :=
  s.setAndAdvance (xlat rx) (((s.readGpr (xlat rx)).extractLsb' 0 8).signExtend 32) 2

/-- SEH rx (R150). -/
def execSeh (rx : BitVec 3) (s : State) : Host.Outcome State Fault Refusal :=
  s.setAndAdvance (xlat rx) (((s.readGpr (xlat rx)).extractLsb' 0 16).signExtend 32) 2

/-- SLTI rx, immediate (R151). -/
def execSlti (rx : BitVec 3) (imm : BitVec 16) (s : State) : Host.Outcome State Fault Refusal :=
  s.setAndAdvance regT (boolWord (lessSigned (s.readGpr (xlat rx)) (sext16 imm))) 4

/-- SLTIU rx, immediate (R152): sign-extended, then compared unsigned. -/
def execSltiu (rx : BitVec 3) (imm : BitVec 16) (s : State) : Host.Outcome State Fault Refusal :=
  s.setAndAdvance regT (boolWord (lessUnsigned (s.readGpr (xlat rx)) (sext16 imm))) 4

/-- SLT rx, ry (R153). -/
def execSlt (rx ry : BitVec 3) (s : State) : Host.Outcome State Fault Refusal :=
  s.setAndAdvance regT (boolWord (lessSigned (s.readGpr (xlat rx)) (s.readGpr (xlat ry)))) 2

/-- SLTU rx, ry (R154). -/
def execSltu (rx ry : BitVec 3) (s : State) : Host.Outcome State Fault Refusal :=
  s.setAndAdvance regT (boolWord (lessUnsigned (s.readGpr (xlat rx)) (s.readGpr (xlat ry)))) 2

/-- XOR rx, ry (R155). -/
def execXor (rx ry : BitVec 3) (s : State) : Host.Outcome State Fault Refusal :=
  s.setAndAdvance (xlat rx) (s.readGpr (xlat rx) ^^^ s.readGpr (xlat ry)) 2

/-- ZEB rx (R156). -/
def execZeb (rx : BitVec 3) (s : State) : Host.Outcome State Fault Refusal :=
  s.setAndAdvance (xlat rx) (((s.readGpr (xlat rx)).extractLsb' 0 8).setWidth 32) 2

/-- ZEH rx (R157). -/
def execZeh (rx : BitVec 3) (s : State) : Host.Outcome State Fault Refusal :=
  s.setAndAdvance (xlat rx) (((s.readGpr (xlat rx)).extractLsb' 0 16).setWidth 32) 2

end Sys2Proof.Machine
end

