-- ==== Sys2Proof/Machine/MulDiv.lean ====
section
/-! DEFINITION. Multiply, divide and the HI/LO moves (44_muldiv): exact integers, narrowed at the end. -/

namespace Sys2Proof.Machine

/-- The low and high words of an exact product (R214, R215). -/
def State.writeProduct (s : State) (p : Int) : Host.Outcome State Fault Refusal :=
  let prod := BitVec.ofInt 64 p
  .next ((s.writeHiLo (prod.extractLsb' 32 32) (prod.extractLsb' 0 32)).advance 2)

/-- DIV rx, ry (R210): truncated toward zero (PRESUMED by D16, log 13); a zero divisor and the overflow
-2^31 / -1 leave two drawn values (log 14). -/
def execDiv (rx ry : BitVec 3) (s : State) : Host.Outcome State Fault Refusal :=
  let a := (s.readGpr (xlat rx)).toInt
  let b := (s.readGpr (xlat ry)).toInt
  if b = 0 ∨ (a = -2147483648 ∧ b = -1) then .next (s.drawHiLo.advance 2)
  else
    let q := Int.tdiv a b
    let r := a - q * b
    .next ((s.writeHiLo (BitVec.ofInt 32 r) (BitVec.ofInt 32 q)).advance 2)

/-- DIVU rx, ry (R211). -/
def execDivu (rx ry : BitVec 3) (s : State) : Host.Outcome State Fault Refusal :=
  let a := (s.readGpr (xlat rx)).toNat
  let b := (s.readGpr (xlat ry)).toNat
  if b = 0 then .next (s.drawHiLo.advance 2)
  else .next ((s.writeHiLo (BitVec.ofNat 32 (a - a / b * b)) (BitVec.ofNat 32 (a / b))).advance 2)

/-- MFHI rx (R212). -/
def execMfhi (rx : BitVec 3) (s : State) : Host.Outcome State Fault Refusal :=
  s.setAndAdvance (xlat rx) s.hi 2

/-- MFLO rx (R213). -/
def execMflo (rx : BitVec 3) (s : State) : Host.Outcome State Fault Refusal :=
  s.setAndAdvance (xlat rx) s.lo 2

/-- MULT rx, ry (R214). -/
def execMult (rx ry : BitVec 3) (s : State) : Host.Outcome State Fault Refusal :=
  s.writeProduct ((s.readGpr (xlat rx)).toInt * (s.readGpr (xlat ry)).toInt)

/-- MULTU rx, ry (R215). -/
def execMultu (rx ry : BitVec 3) (s : State) : Host.Outcome State Fault Refusal :=
  s.writeProduct ((s.readGpr (xlat rx)).toNat * (s.readGpr (xlat ry)).toNat : Nat)

end Sys2Proof.Machine
end

