-- ==== Sys2Proof/Machine/SaveRestore.lean ====
section
/-! DEFINITION. SAVE and RESTORE (46_save_restore). -/

namespace Sys2Proof.Machine

/-- RESTORE (R253). -/
def execRestore (ra s0 s1 : Bool) (framesize : BitVec 4) (s : State) : Host.Outcome State Fault Refusal :=
  s.restoreFrame (frameBytes4 framesize) 2 (frameRegs ra s0 s1 [] [])

/-- RESTORE, Extended (R254): argument registers are not reloaded; reserved `aregs` is tested first. -/
def execRestoreExt (ra s0 s1 : Bool) (xsregs : BitVec 3) (aregs : BitVec 4) (framesize : BitVec 8) (s : State) :
    Host.Outcome State Fault Refusal :=
  match aregsTable aregs with
  | none => .fault (.unpredictable .reservedAregs)
  | some (_, astatic) =>
    s.restoreFrame (frameBytes8 framesize) 4 (frameRegs ra s0 s1 (xsRegs xsregs) (staticRegs astatic))

/-- SAVE (R255). -/
def execSave (ra s0 s1 : Bool) (framesize : BitVec 4) (s : State) : Host.Outcome State Fault Refusal :=
  s.saveFrame (frameBytes4 framesize) 2 [] (frameRegs ra s0 s1 [] [])

/-- SAVE, Extended (R256). -/
def execSaveExt (ra s0 s1 : Bool) (xsregs : BitVec 3) (aregs : BitVec 4) (framesize : BitVec 8) (s : State) :
    Host.Outcome State Fault Refusal :=
  match aregsTable aregs with
  | none => .fault (.unpredictable .reservedAregs)
  | some (args, astatic) =>
    s.saveFrame (frameBytes8 framesize) 4 (argRegs args) (frameRegs ra s0 s1 (xsRegs xsregs) (staticRegs astatic))

end Sys2Proof.Machine
end

