-- ==== Sys2Proof/Machine/Shift.lean ====
section
/-! DEFINITION. Shifts (47_shift), by 0 to 31. -/

namespace Sys2Proof.Machine

/-- "The 5 low-order bits of GPR rx specify the shift amount" (R271). -/
def State.shiftAmount (s : State) (rx : BitVec 3) : BitVec 5 := (s.readGpr (xlat rx)).extractLsb' 0 5

/-- SLL rx, ry, sa (R270). -/
def execSll (rx ry : BitVec 3) (sa : BitVec 5) (s : State) : Host.Outcome State Fault Refusal :=
  s.setAndAdvance (xlat rx) (s.readGpr (xlat ry) <<< sa.toNat) 4

/-- SLLV ry, rx (R271). -/
def execSllv (ry rx : BitVec 3) (s : State) : Host.Outcome State Fault Refusal :=
  s.setAndAdvance (xlat ry) (s.readGpr (xlat ry) <<< (s.shiftAmount rx).toNat) 2

/-- SRA rx, ry, sa (R272). -/
def execSra (rx ry : BitVec 3) (sa : BitVec 5) (s : State) : Host.Outcome State Fault Refusal :=
  s.setAndAdvance (xlat rx) ((s.readGpr (xlat ry)).sshiftRight sa.toNat) 4

/-- SRAV ry, rx (R273). -/
def execSrav (ry rx : BitVec 3) (s : State) : Host.Outcome State Fault Refusal :=
  s.setAndAdvance (xlat ry) ((s.readGpr (xlat ry)).sshiftRight (s.shiftAmount rx).toNat) 2

/-- SRL rx, ry, sa (R274). -/
def execSrl (rx ry : BitVec 3) (sa : BitVec 5) (s : State) : Host.Outcome State Fault Refusal :=
  s.setAndAdvance (xlat rx) (s.readGpr (xlat ry) >>> sa.toNat) 4

/-- SRLV ry, rx (R275). -/
def execSrlv (ry rx : BitVec 3) (s : State) : Host.Outcome State Fault Refusal :=
  s.setAndAdvance (xlat ry) (s.readGpr (xlat ry) >>> (s.shiftAmount rx).toNat) 2

end Sys2Proof.Machine
end

