-- ==== Sys2Proof/Machine/System.lean ====
section
/-! DEFINITION. ASMACRO, BREAK and SDBBP (42_system): each takes its exception. -/

namespace Sys2Proof.Machine

/-- ASMACRO (R170): Reserved Instruction unless the implementation has the macro; what a macro does is "not defined
by the source" (D10 has none; log 28). -/
def execAsmacro (select : BitVec 3) (_p0 : BitVec 5) (_p1 _p2 : BitVec 3) (_p3 : BitVec 5) (_p4 : BitVec 3)
    (s : State) : Host.Outcome State Fault Refusal :=
  if s.cfg.asmacro.contains select then .refused (.macroNotInSource select)
  else .next (s.raise .reservedInstruction none)

/-- BREAK (R171): the code is not read by the hardware. -/
def execBrk (_code : BitVec 6) (s : State) : Host.Outcome State Fault Refusal :=
  .next (s.raise .breakpoint none)

/-- SDBBP (R172): Debug Breakpoint, or in Debug Mode a Debug Mode Breakpoint, "which sets the DebugDExcCode field to
the value 0x9 (Bp)". -/
def execSdbbp (_code : BitVec 6) (s : State) : Host.Outcome State Fault Refusal :=
  .next (if s.debugDM then { s.raiseDebug .debugModeBreakpoint with debugDExcCode := 0x9#5 }
    else s.raiseDebug .debugBreakpoint)

end Sys2Proof.Machine
end

