-- ==== Sys2Proof/Machine/Dispatch.lean ====
section
/-! DEFINITION. The one dispatch: each instruction's meaning by name. -/

namespace Sys2Proof.Machine

/-- The rule of one instruction (line 5 of 10_state R30): what it does to the state, its own pc included. -/
def exec (i : Instr) (s : State) : Host.Outcome State Fault Refusal :=
  match i with
  | .addiuRxImm rx imm => Sys2Proof.Machine.execAddiuRxImm rx imm s
  | .addiuRxPcImm rx imm => Sys2Proof.Machine.execAddiuRxPcImm rx imm s
  | .addiuRxSpImm rx imm => Sys2Proof.Machine.execAddiuRxSpImm rx imm s
  | .addiuRyRxImm ry rx imm => Sys2Proof.Machine.execAddiuRyRxImm ry rx imm s
  | .addiuSpImm imm => Sys2Proof.Machine.execAddiuSpImm imm s
  | .addu rz rx ry => Sys2Proof.Machine.execAddu rz rx ry s
  | .neg rx ry => Sys2Proof.Machine.execNeg rx ry s
  | .subu rz rx ry => Sys2Proof.Machine.execSubu rz rx ry s
  | .and rx ry => Sys2Proof.Machine.execAnd rx ry s
  | .cmpi rx imm => Sys2Proof.Machine.execCmpi rx imm s
  | .cmp rx ry => Sys2Proof.Machine.execCmp rx ry s
  | .li rx imm => Sys2Proof.Machine.execLi rx imm s
  | .moveR32Rz r32 rz => Sys2Proof.Machine.execMoveR32Rz r32 rz s
  | .moveRyR32 ry r32 => Sys2Proof.Machine.execMoveRyR32 ry r32 s
  | .nop => Sys2Proof.Machine.execNop s
  | .not rx ry => Sys2Proof.Machine.execNot rx ry s
  | .or rx ry => Sys2Proof.Machine.execOr rx ry s
  | .seb rx => Sys2Proof.Machine.execSeb rx s
  | .seh rx => Sys2Proof.Machine.execSeh rx s
  | .slti rx imm => Sys2Proof.Machine.execSlti rx imm s
  | .sltiu rx imm => Sys2Proof.Machine.execSltiu rx imm s
  | .slt rx ry => Sys2Proof.Machine.execSlt rx ry s
  | .sltu rx ry => Sys2Proof.Machine.execSltu rx ry s
  | .xor rx ry => Sys2Proof.Machine.execXor rx ry s
  | .zeb rx => Sys2Proof.Machine.execZeb rx s
  | .zeh rx => Sys2Proof.Machine.execZeh rx s
  | .asmacro select p0 p1 p2 p3 p4 => Sys2Proof.Machine.execAsmacro select p0 p1 p2 p3 p4 s
  | .brk code => Sys2Proof.Machine.execBrk code s
  | .sdbbp code => Sys2Proof.Machine.execSdbbp code s
  | .beqz rx off => Sys2Proof.Machine.execBeqz rx off s
  | .bnez rx off => Sys2Proof.Machine.execBnez rx off s
  | .b off => Sys2Proof.Machine.execB off s
  | .bteqz off => Sys2Proof.Machine.execBteqz off s
  | .btnez off => Sys2Proof.Machine.execBtnez off s
  | .jalrc rx => Sys2Proof.Machine.execJalrc rx s
  | .jalr rx => Sys2Proof.Machine.execJalr rx s
  | .jal target => Sys2Proof.Machine.execJal target s
  | .jalx index => Sys2Proof.Machine.execJalx index s
  | .jrcRa => Sys2Proof.Machine.execJrcRa s
  | .jrcRx rx => Sys2Proof.Machine.execJrcRx rx s
  | .jrRa => Sys2Proof.Machine.execJrRa s
  | .jrRx rx => Sys2Proof.Machine.execJrRx rx s
  | .jalx16 target => Sys2Proof.Machine.execJalx16 target s
  | .div rx ry => Sys2Proof.Machine.execDiv rx ry s
  | .divu rx ry => Sys2Proof.Machine.execDivu rx ry s
  | .mfhi rx => Sys2Proof.Machine.execMfhi rx s
  | .mflo rx => Sys2Proof.Machine.execMflo rx s
  | .mult rx ry => Sys2Proof.Machine.execMult rx ry s
  | .multu rx ry => Sys2Proof.Machine.execMultu rx ry s
  | .lb ry off rx => Sys2Proof.Machine.execLb ry off rx s
  | .lbu ry off rx => Sys2Proof.Machine.execLbu ry off rx s
  | .lh ry off rx => Sys2Proof.Machine.execLh ry off rx s
  | .lhu ry off rx => Sys2Proof.Machine.execLhu ry off rx s
  | .lwRxPc rx off => Sys2Proof.Machine.execLwRxPc rx off s
  | .lwRxSp rx off => Sys2Proof.Machine.execLwRxSp rx off s
  | .lwRyRx ry off rx => Sys2Proof.Machine.execLwRyRx ry off rx s
  | .sb ry off rx => Sys2Proof.Machine.execSb ry off rx s
  | .sh ry off rx => Sys2Proof.Machine.execSh ry off rx s
  | .swRaSp off => Sys2Proof.Machine.execSwRaSp off s
  | .swRxSp rx off => Sys2Proof.Machine.execSwRxSp rx off s
  | .swRyRx ry off rx => Sys2Proof.Machine.execSwRyRx ry off rx s
  | .restore ra s0 s1 framesize => Sys2Proof.Machine.execRestore ra s0 s1 framesize s
  | .restoreExt ra s0 s1 xsregs aregs framesize => Sys2Proof.Machine.execRestoreExt ra s0 s1 xsregs aregs framesize s
  | .save ra s0 s1 framesize => Sys2Proof.Machine.execSave ra s0 s1 framesize s
  | .saveExt ra s0 s1 xsregs aregs framesize => Sys2Proof.Machine.execSaveExt ra s0 s1 xsregs aregs framesize s
  | .sll rx ry sa => Sys2Proof.Machine.execSll rx ry sa s
  | .sllv ry rx => Sys2Proof.Machine.execSllv ry rx s
  | .sra rx ry sa => Sys2Proof.Machine.execSra rx ry sa s
  | .srav ry rx => Sys2Proof.Machine.execSrav ry rx s
  | .srl rx ry sa => Sys2Proof.Machine.execSrl rx ry sa s
  | .srlv ry rx => Sys2Proof.Machine.execSrlv ry rx s

end Sys2Proof.Machine
end

