-- ==== Sys2Proof/Machine/Fetch.lean ====
section
/-! DEFINITION. Fetching an instruction's words, the delay-slot tests, and the end of a step (10_state R30, R33). -/

namespace Sys2Proof.Machine

/-- Whether any of `n` bytes from `addr` has been stored to since launch (20_memory R63). -/
def State.touchesWritten (s : State) (addr : Word) (n : Nat) : Bool :=
  (List.range n).any fun k => s.written.contains (addr + BitVec.ofNat 32 k).toNat

/-- What every fetch of `n` bytes asks for: `Admit(addr, n, FETCH)` (20_memory R58), and no byte written since
launch (R63). -/
def State.checkFetch (s : State) (addr : Word) (n : Nat) : Except Fault Unit :=
  if admits s.cfg addr n .fetch then
    if s.touchesWritten addr n then .error (.fetchOfWrittenMemory addr) else .ok ()
  else .error (.unmappedAccess addr .fetch)

/-- `Fetch16(addr)` (20_memory R58). -/
def State.fetch16 (s : State) (addr : Word) : Except Fault Half :=
  match s.checkFetch addr 2 with
  | .error f => .error f
  | .ok _ => .ok (s.readHalf addr)

/-- Lines 1 and 2 of 10_state R30: the words of the instruction at pc in MIPS16e mode. -/
def State.fetchCode16 (s : State) : Except Fault Code :=
  match s.fetch16 s.pc with
  | .error f => .error f
  | .ok hw1 =>
    if Code.isWide hw1 then
      match s.fetch16 (s.pc + 2) with
      | .error f => .error f
      | .ok hw2 => .ok (.pair hw1 hw2)
    else .ok (.half hw1)

/-- The 32-bit MIPS word at pc: `value(pc, 4)` (20_memory R58, 10_state R33). -/
def State.fetchCode32 (s : State) : Except Fault Code :=
  match s.checkFetch s.pc 4 with
  | .error f => .error f
  | .ok _ => .ok (.mips32 (s.readWord s.pc))

/-- The refusal that stands for a rejected code. -/
def refusalOf : DecodeReject → Refusal
  | .notInSource16 hw => .notInSource16 hw
  | .notInSource32 w => .notInSource32 w
  | .mips32NotInSource w => .mips32NotInSource w
  | .truncated => .truncated

/-- Line 4 of 10_state R30, first half: a 32-bit MIPS16e instruction may not stand in a delay slot. The test needs
the length alone, so it comes before decoding (60_exceptions R309). -/
def slotRejectsCode (inSlot : Bool) : Code → Bool
  | .half _ => false
  | .pair _ _ => inSlot
  | .mips32 _ => false

/-- Line 4 of 10_state R30, second half, for a decoded instruction: a branch or jump in a delay slot. In 32-bit mode
the slot instruction is refused instead, JALX included (43_branch_jump R190 (c), U5; log 17). -/
def slotStop (inSlot : Bool) (c : Code) (i : Instr) : Option (Host.Outcome State Fault Refusal) :=
  if inSlot && i.isBranchOrJump then
    match c with
    | .mips32 w => some (.refused (.jalxInDelaySlot w))
    | _ => some (.fault (.unpredictable .jumpInDelaySlot))
  else none

/-- Whether the jump's source register still gives the same target and mode (10_state R28). -/
def Delay.holds (d : Delay) (s : State) : Bool :=
  match d.src with
  | none => true
  | some r => jumpTarget (s.readGpr r) == d.target && jumpMode (s.readGpr r) == d.mode

/-- Line 6 of 10_state R30: `pending` is the jump pending when the step began, `s` the state its instruction left.
An exception ends the step (60_exceptions R310); a pending jump takes effect, unless the slot changed its register;
otherwise pc and ISAMode stay as the rule set them. -/
def State.retire (s : State) (pending : Option Delay) : Host.Outcome State Fault Refusal :=
  match s.exc, pending with
  | some _, _ => .next s
  | none, none => .next s
  | none, some d =>
    if d.holds s then .next { s with delay := none, pc := d.target, isaMode := d.mode }
    else .fault (.unpredictable .jumpRegisterChanged)

end Sys2Proof.Machine
end

