-- ==== Sys2Proof/Machine/Run.lean ====
section
/-! DEFINITION. What one step does (10_state R30, R33), and how an instruction is placed where the step fetches it. -/

namespace Sys2Proof.Machine

/-- Runs a decoded instruction and ends the step (lines 5 and 6 of 10_state R30). -/
def State.runInstr (s : State) (i : Instr) : Host.Outcome State Fault Refusal :=
  match exec i s with
  | .next s' => s'.retire s.delay
  | .fault f => .fault f
  | .refused r => .refused r

/-- Runs a fetched code: the delay-slot tests around decoding, then the instruction (lines 4 to 6). -/
def State.runCode (s : State) (c : Code) : Host.Outcome State Fault Refusal :=
  if slotRejectsCode s.delay.isSome c then .fault (.unpredictable .wideInDelaySlot)
  else
    match decode c with
    | .error e => .refused (refusalOf e)
    | .ok i =>
      match slotStop s.delay.isSome c i with
      | some stop => stop
      | none => s.runInstr i

/-- Runs what a fetch gave. -/
def State.runFetched (s : State) : Except Fault Code → Host.Outcome State Fault Refusal
  | .error f => .fault f
  | .ok c => s.runCode c

/-- One step: nothing follows an exception (60_exceptions R310); with ISAMode = 1 the step of 10_state R30; with
ISAMode = 0 that of R33, whose fetch at an address that is no multiple of 4 raises Address Error. -/
def State.runStep (s : State) : Host.Outcome State Fault Refusal :=
  match s.exc with
  | some e => .fault (.exceptionTaken e)
  | none =>
    if s.isaMode then s.runFetched s.fetchCode16
    else if wordAligned s.pc then s.runFetched s.fetchCode32
    else .next (s.raise .addressError (some s.pc))

/-- Places the bytes of a program, as the launch does: they do not count as stored (20_memory R63, R340). -/
def State.placeBytes (s : State) (addr : Word) : List Byte → State
  | [] => s
  | b :: bs =>
    State.placeBytes
      { s with mem := Memory.write s.mem addr.toNat b, written := s.written.filter (· != addr.toNat) } (addr + 1) bs

/-- One instruction, numbered as the opcode table numbers it, placed at pc, in the ISA mode that decodes it
(log 29). -/
def State.placeTableWord (s : State) (nbits w : Nat) : State :=
  { s.placeBytes s.pc (tableBytes s.cfg.bigEndian nbits w) with isaMode := !tableIsMips32 nbits w }

end Sys2Proof.Machine
end

