-- ==== Sys2Proof/Machine/Step.lean ====
section
/-! DEFINITION. The step of the machine, and the placing of one instruction where it fetches. -/

namespace Sys2Proof.Machine

/-- One step of the machine (10_state R30, R33). -/
def step (s : State) : Host.Outcome State Fault Refusal := s.runStep

/-- The state with one instruction stored where the step fetches its next one (log 29). -/
def State.withFetchWord (s : State) (nbits w : Nat) : State := s.placeTableWord nbits w

end Sys2Proof.Machine
end

