-- ==== Sys2Proof/Safety.lean ====
section
/-! DEFINITION. The terms in which claims are stated: the invariant of the machine, and what a rule leaves alone. -/

namespace Sys2Proof.Machine

/-- The invariant every step keeps. Each field holds at launch. -/
structure State.Inv (s : State) : Prop where
  /-- Bit 0 of pc is 0 (10_state R25). -/
  pcEven : s.pc.getLsbD 0 = false
  /-- A pending jump's target is even (43_branch_jump R181, R189, R190). -/
  targetEven : ∀ d, s.delay = some d → d.target.getLsbD 0 = false
  /-- A pending jump's register still gives its target and mode (10_state R28). -/
  delayHolds : ∀ d, s.delay = some d → d.holds s = true
  /-- After an exception no jump is pending and pc is the address it reports (60_exceptions R307, R310). -/
  excPrecise : ∀ e, s.exc = some e → s.delay = none ∧ e.epc = s.pc
  /-- The place that stands for GPR 0 holds 0 (10_state R21). -/
  zeroIsZero : s.gpr[0] = 0
  /-- Memory is in its canonical form. -/
  memWf : Memory.wf s.mem = true
  /-- The written set is in its canonical form. -/
  writtenWf : WriteSet.wf s.written = true

/-! ## The opcode table (spec/opcode_table.json, 30_encoding R92) -/

/-- A row: its width, the value its fixed bits have, and the mask of its fixed bits. -/
structure OpcodeRow where
  width : Nat
  value : Word
  mask : Word
  deriving DecidableEq, Repr

/-- The row of an instruction, copied from the table. -/
def opcodeRow : Instr → OpcodeRow
  | .addiuRxImm _ _ => ⟨32, 0xf0004800, 0xf800f8e0⟩
  | .addiuRxPcImm _ _ => ⟨32, 0xf0000800, 0xf800f8e0⟩
  | .addiuRxSpImm _ _ => ⟨32, 0xf0000000, 0xf800f8e0⟩
  | .addiuRyRxImm _ _ _ => ⟨32, 0xf0004000, 0xf800f810⟩
  | .addiuSpImm _ => ⟨32, 0xf0006300, 0xf800ffe0⟩
  | .addu _ _ _ => ⟨16, 0xe001, 0xf803⟩
  | .neg _ _ => ⟨16, 0xe80b, 0xf81f⟩
  | .subu _ _ _ => ⟨16, 0xe003, 0xf803⟩
  | .and _ _ => ⟨16, 0xe80c, 0xf81f⟩
  | .cmpi _ _ => ⟨32, 0xf0007000, 0xf800f8e0⟩
  | .cmp _ _ => ⟨16, 0xe80a, 0xf81f⟩
  | .li _ _ => ⟨32, 0xf0006800, 0xf800f8e0⟩
  | .moveR32Rz _ _ => ⟨16, 0x6500, 0xff00⟩
  | .moveRyR32 _ _ => ⟨16, 0x6700, 0xff00⟩
  | .nop => ⟨16, 0x6500, 0xffff⟩
  | .not _ _ => ⟨16, 0xe80f, 0xf81f⟩
  | .or _ _ => ⟨16, 0xe80d, 0xf81f⟩
  | .seb _ => ⟨16, 0xe891, 0xf8ff⟩
  | .seh _ => ⟨16, 0xe8b1, 0xf8ff⟩
  | .slti _ _ => ⟨32, 0xf0005000, 0xf800f8e0⟩
  | .sltiu _ _ => ⟨32, 0xf0005800, 0xf800f8e0⟩
  | .slt _ _ => ⟨16, 0xe802, 0xf81f⟩
  | .sltu _ _ => ⟨16, 0xe803, 0xf81f⟩
  | .xor _ _ => ⟨16, 0xe80e, 0xf81f⟩
  | .zeb _ => ⟨16, 0xe811, 0xf8ff⟩
  | .zeh _ => ⟨16, 0xe831, 0xf8ff⟩
  | .asmacro _ _ _ _ _ _ => ⟨32, 0xf000e000, 0xf800f800⟩
  | .brk _ => ⟨16, 0xe805, 0xf81f⟩
  | .sdbbp _ => ⟨16, 0xe801, 0xf81f⟩
  | .beqz _ _ => ⟨32, 0xf0002000, 0xf800f8e0⟩
  | .bnez _ _ => ⟨32, 0xf0002800, 0xf800f8e0⟩
  | .b _ => ⟨32, 0xf0001000, 0xf800ffe0⟩
  | .bteqz _ => ⟨32, 0xf0006000, 0xf800ffe0⟩
  | .btnez _ => ⟨32, 0xf0006100, 0xf800ffe0⟩
  | .jalrc _ => ⟨16, 0xe8c0, 0xf8ff⟩
  | .jalr _ => ⟨16, 0xe840, 0xf8ff⟩
  | .jal _ => ⟨32, 0x18000000, 0xfc000000⟩
  | .jalx _ => ⟨32, 0x74000000, 0xfc000000⟩
  | .jrcRa => ⟨16, 0xe8a0, 0xffff⟩
  | .jrcRx _ => ⟨16, 0xe880, 0xf8ff⟩
  | .jrRa => ⟨16, 0xe820, 0xffff⟩
  | .jrRx _ => ⟨16, 0xe800, 0xf8ff⟩
  | .jalx16 _ => ⟨32, 0x1c000000, 0xfc000000⟩
  | .div _ _ => ⟨16, 0xe81a, 0xf81f⟩
  | .divu _ _ => ⟨16, 0xe81b, 0xf81f⟩
  | .mfhi _ => ⟨16, 0xe810, 0xf8ff⟩
  | .mflo _ => ⟨16, 0xe812, 0xf8ff⟩
  | .mult _ _ => ⟨16, 0xe818, 0xf81f⟩
  | .multu _ _ => ⟨16, 0xe819, 0xf81f⟩
  | .lb _ _ _ => ⟨32, 0xf0008000, 0xf800f800⟩
  | .lbu _ _ _ => ⟨32, 0xf000a000, 0xf800f800⟩
  | .lh _ _ _ => ⟨32, 0xf0008800, 0xf800f800⟩
  | .lhu _ _ _ => ⟨32, 0xf000a800, 0xf800f800⟩
  | .lwRxPc _ _ => ⟨32, 0xf000b000, 0xf800f8e0⟩
  | .lwRxSp _ _ => ⟨32, 0xf0009000, 0xf800f8e0⟩
  | .lwRyRx _ _ _ => ⟨32, 0xf0009800, 0xf800f800⟩
  | .sb _ _ _ => ⟨32, 0xf000c000, 0xf800f800⟩
  | .sh _ _ _ => ⟨32, 0xf000c800, 0xf800f800⟩
  | .swRaSp _ => ⟨32, 0xf0006200, 0xf800ffe0⟩
  | .swRxSp _ _ => ⟨32, 0xf000d000, 0xf800f8e0⟩
  | .swRyRx _ _ _ => ⟨32, 0xf000d800, 0xf800f800⟩
  | .restore _ _ _ _ => ⟨16, 0x6400, 0xff80⟩
  | .restoreExt _ _ _ _ _ _ => ⟨32, 0xf0006400, 0xf800ff80⟩
  | .save _ _ _ _ => ⟨16, 0x6480, 0xff80⟩
  | .saveExt _ _ _ _ _ _ => ⟨32, 0xf0006480, 0xf800ff80⟩
  | .sll _ _ _ => ⟨32, 0xf0003000, 0xf83ff81f⟩
  | .sllv _ _ => ⟨16, 0xe804, 0xf81f⟩
  | .sra _ _ _ => ⟨32, 0xf0003003, 0xf83ff81f⟩
  | .srav _ _ => ⟨16, 0xe807, 0xf81f⟩
  | .srl _ _ _ => ⟨32, 0xf0003002, 0xf83ff81f⟩
  | .srlv _ _ => ⟨16, 0xe806, 0xf81f⟩

/-- A code as one number: the halfword, `I32 = hw1 || hw2`, or the 32-bit word (00_scope R7). -/
def codeWord : Code → Word
  | .half hw => hw.setWidth 32
  | .pair hw1 hw2 => hw1 ++ hw2
  | .mips32 w => w

/-- Whether a code selects a row (30_encoding R92: `w & mask = match`); a 32-bit MIPS word selects only the row of
JALX, a MIPS16e code only the others ("`mode`"). -/
def selects (c : Code) (i : Instr) : Prop :=
  codeWord c &&& (opcodeRow i).mask = (opcodeRow i).value ∧
    match c with
    | .half _ => (opcodeRow i).width = 16 ∧ i.isa16 = true
    | .pair _ _ => (opcodeRow i).width = 32 ∧ i.isa16 = true
    | .mips32 _ => i.isa16 = false

/-- An instruction's length in bytes and the fixed bits of its words. -/
def EncodedAs (i : Instr) (len : Nat) (value mask : Word) : Prop :=
  i.len = len ∧ codeWord (encode i) &&& mask = value

/-! ## Frames -/

/-- Every register outside the list reads as before. -/
def SameGprExcept (rs : List Gpr) (s t : State) : Prop := ∀ r, r ∉ rs → t.readGpr r = s.readGpr r

/-- HI, LO and the draws are as before. -/
def SameHiLo (s t : State) : Prop := t.hi = s.hi ∧ t.lo = s.lo ∧ t.draws = s.draws

/-- ISAMode and the pending jump are as before. -/
def SameControl (s t : State) : Prop := t.isaMode = s.isaMode ∧ t.delay = s.delay

/-- The debug and watch registers, the outcome record and the parameters are as before. -/
def SameSystem (s t : State) : Prop :=
  t.debugDM = s.debugDM ∧ t.debugDExcCode = s.debugDExcCode ∧ t.depc = s.depc ∧ t.watchHi = s.watchHi ∧
    t.watchLo = s.watchLo ∧ t.exc = s.exc ∧ t.cfg = s.cfg

/-- Every byte of memory reads as before, and no address joined the written set. -/
def SameMem (s t : State) : Prop := (∀ a, t.readByte a = s.readByte a) ∧ t.written = s.written

/-- The address of byte `k` from `base`, modulo 2^32. -/
def byteAddr (base : Word) (k : Nat) : Word := base + BitVec.ofNat 32 k

/-- Every byte outside the `n` bytes from `base` reads as before, and the written set gained those `n` alone. -/
def StoresOnly (base : Word) (n : Nat) (s t : State) : Prop :=
  (∀ a, (∀ k, k < n → a ≠ byteAddr base k) → t.readByte a = s.readByte a) ∧
  (∀ x, x ∈ t.written ↔ x ∈ s.written ∨ ∃ k, k < n ∧ x = (byteAddr base k).toNat)

/-- The address of the word number `k` below `top`, counted from 0: SAVE and RESTORE transfer their k-th register
there (46_save_restore R253 to R256). -/
def frameSlot (top : Word) (k : Nat) : Word := top - BitVec.ofNat 32 (4 * (k + 1))

/-- The address of the word number `k` from `bottom` upward: extended SAVE stores its k-th argument register there
(46_save_restore R256). -/
def argSlot (bottom : Word) (k : Nat) : Word := bottom + BitVec.ofNat 32 (4 * k)

/-- Slot `k` of the `n` is the first whose word is not admitted for the access: all before it are. -/
def FirstUnadmitted (cfg : Cfg) (slot : Nat → Word) (n k : Nat) (kind : AccessKind) : Prop :=
  k < n ∧ (∀ j, j < k → admits cfg (slot j) 4 kind = true) ∧ admits cfg (slot k) 4 kind = false

/-- A rule that completes, leaves `v` in `rd` (a register other than GPR 0), moves pc by `len` and changes nothing
else. -/
def Computes (i : Instr) (s : State) (rd : Gpr) (v : Word) (len : Word) : Prop :=
  ∃ t, exec i s = .next t ∧ t.readGpr rd = v ∧ t.pc = s.pc + len ∧
    SameGprExcept [rd] s t ∧ SameHiLo s t ∧ SameControl s t ∧ SameSystem s t ∧ SameMem s t

/-- A rule that completes, leaves `hi` and `lo` in HI and LO, moves pc by 2 and changes nothing else. -/
def LeavesHiLo (i : Instr) (s : State) (hi lo : Word) : Prop :=
  ∃ t, exec i s = .next t ∧ t.hi = hi ∧ t.lo = lo ∧ t.pc = s.pc + 2 ∧ t.draws = s.draws ∧
    SameGprExcept [] s t ∧ SameControl s t ∧ SameSystem s t ∧ SameMem s t

/-- A rule that completes, leaves pc and ISAMode as given, and changes nothing else. -/
def GoesTo (i : Instr) (s : State) (pc : Word) (mode : Bool) : Prop :=
  ∃ t, exec i s = .next t ∧ t.pc = pc ∧ t.isaMode = mode ∧ t.delay = s.delay ∧
    SameGprExcept [] s t ∧ SameHiLo s t ∧ SameSystem s t ∧ SameMem s t

/-- A rule that completes with a jump pending: pc moves past the jump, ISAMode stays, GPR 31 holds the link value
where there is one, and nothing else changes. -/
def SetsDelay (i : Instr) (s : State) (len : Word) (link : Option Word) (d : Delay) : Prop :=
  ∃ t, exec i s = .next t ∧ t.delay = some d ∧ t.pc = s.pc + len ∧ t.isaMode = s.isaMode ∧
    (match link with
      | none => SameGprExcept [] s t
      | some v => t.readGpr 31 = v ∧ SameGprExcept [31] s t) ∧
    SameHiLo s t ∧ SameSystem s t ∧ SameMem s t

/-- A rule that completes, stores the `n` bytes from `a` and no other, after which `holds` is true of the state,
moves pc by 4 and changes nothing else. -/
def Stores (i : Instr) (s : State) (a : Word) (n : Nat) (holds : State → Prop) : Prop :=
  ∃ t, exec i s = .next t ∧ holds t ∧ StoresOnly a n s t ∧ t.pc = s.pc + 4 ∧
    SameGprExcept [] s t ∧ SameHiLo s t ∧ SameControl s t ∧ SameSystem s t

/-- What the stores of SAVE leave: argument `k` of `args` in the word at old-sp + 4k, register `k` of `regs` in the word
number `k` below old-sp, every byte outside those words as before, and their bytes (no other) joined to the written
set. -/
def FrameStored (s : State) (args regs : List Gpr) (t : State) : Prop :=
  (∀ k (h : k < args.length), t.readWord (argSlot (s.readGpr 29) k) = s.readGpr args[k]) ∧
  (∀ k (h : k < regs.length), t.readWord (frameSlot (s.readGpr 29) k) = s.readGpr regs[k]) ∧
  (∀ a, (∀ k, k < args.length → ∀ j, j < 4 → a ≠ byteAddr (argSlot (s.readGpr 29) k) j) →
    (∀ k, k < regs.length → ∀ j, j < 4 → a ≠ byteAddr (frameSlot (s.readGpr 29) k) j) → t.readByte a = s.readByte a) ∧
  (∀ x, x ∈ t.written ↔ x ∈ s.written ∨
    (∃ k, k < args.length ∧ ∃ j, j < 4 ∧ x = (byteAddr (argSlot (s.readGpr 29) k) j).toNat) ∨
    ∃ k, k < regs.length ∧ ∃ j, j < 4 ∧ x = (byteAddr (frameSlot (s.readGpr 29) k) j).toNat)

/-- What the loads of RESTORE leave: register `k` of `regs` holds the word number `k` below `top`. -/
def FrameLoaded (s : State) (top : Word) (regs : List Gpr) (t : State) : Prop :=
  ∀ k (h : k < regs.length), t.readGpr regs[k] = s.readWord (frameSlot top k)

/-- A SAVE that completes: its stores, GPR 29 lowered by `size`, pc moved by `len`, and nothing else changed. -/
def SavesFrame (i : Instr) (s : State) (args regs : List Gpr) (size len : Word) : Prop :=
  ∃ t, exec i s = .next t ∧ FrameStored s args regs t ∧
    t.readGpr 29 = s.readGpr 29 - size ∧ t.pc = s.pc + len ∧
    SameGprExcept [29] s t ∧ SameHiLo s t ∧ SameControl s t ∧ SameSystem s t

/-- A RESTORE that completes: its loads from below old-sp + `size`, GPR 29 that sum, pc moved by `len`, and nothing
else changed. -/
def RestoresFrame (i : Instr) (s : State) (regs : List Gpr) (size len : Word) : Prop :=
  ∃ t, exec i s = .next t ∧ FrameLoaded s (s.readGpr 29 + size) regs t ∧
    t.readGpr 29 = s.readGpr 29 + size ∧ t.pc = s.pc + len ∧
    SameGprExcept (29 :: regs) s t ∧ SameHiLo s t ∧ SameControl s t ∧ SameSystem s t ∧ SameMem s t

/-- A SAVE that faults at the store to `slot`: the state it leaves has the stores of `args` and `regs`, no pending
jump, and every register (GPR 29 among them), pc and all else as before (46_save_restore R257, D24). -/
def SaveStops (i : Instr) (s : State) (slot : Word) (args regs : List Gpr) : Prop :=
  ∃ t, exec i s = .fault (.unmappedTransfer slot .store t) ∧ FrameStored s args regs t ∧
    t.pc = s.pc ∧ t.isaMode = s.isaMode ∧ t.delay = none ∧ SameGprExcept [] s t ∧ SameHiLo s t ∧ SameSystem s t

/-- A RESTORE that faults at the load from `slot`: the state it leaves has the loads of `regs` from below `top`, no
pending jump, and every other register (GPR 29 among them), memory, pc and all else as before. -/
def RestoreStops (i : Instr) (s : State) (slot top : Word) (regs : List Gpr) : Prop :=
  ∃ t, exec i s = .fault (.unmappedTransfer slot .load t) ∧ FrameLoaded s top regs t ∧
    t.pc = s.pc ∧ t.isaMode = s.isaMode ∧ t.delay = none ∧ SameGprExcept regs s t ∧ t.readGpr 29 = s.readGpr 29 ∧
    SameHiLo s t ∧ SameSystem s t ∧ SameMem s t

/-- A rule that takes an exception: the record of 60_exceptions R307 is the outcome, the pending jump is discarded,
pc and ISAMode stay, and no register or memory is written (R310). -/
def TakesException (i : Instr) (s : State) (kind : ExcKind) (addr : Option Word) : Prop :=
  ∃ t, exec i s = .next t ∧ t.exc = some ⟨kind, s.pc, s.delay.isSome, addr⟩ ∧ t.delay = none ∧
    t.pc = s.pc ∧ t.isaMode = s.isaMode ∧ t.debugDM = s.debugDM ∧ t.debugDExcCode = s.debugDExcCode ∧
    t.depc = s.depc ∧ t.watchHi = s.watchHi ∧ t.watchLo = s.watchLo ∧ t.cfg = s.cfg ∧
    SameGprExcept [] s t ∧ SameHiLo s t ∧ SameMem s t

/-! ## Fetching -/

/-- A halfword that may be fetched: admitted, and neither byte stored to since launch (20_memory R58, R63). -/
def HalfFetchable (s : State) (a : Word) : Prop :=
  admits s.cfg a 2 .fetch = true ∧ a.toNat ∉ s.written ∧ (a + 1).toNat ∉ s.written

/-- The four bytes from an address. -/
def fourBytes (s : State) (a : Word) : List Byte :=
  [s.readByte a, s.readByte (a + 1), s.readByte (a + 2), s.readByte (a + 3)]

/-- The jump register still gives the target and mode of the pending jump (10_state R28). -/
def JumpRegisterKept (d : Delay) (t : State) : Prop :=
  ∀ r, d.src = some r → t.readGpr r &&& 0xFFFFFFFE = d.target ∧ (t.readGpr r).getLsbD 0 = d.mode

end Sys2Proof.Machine
end

