-- ==== Sys2Proof/Certificates/Slice0/Obligations.lean ====
section
/-! DEFINITION. The statements for the provers. OBLIGATIONS.json lists them with the rules they rest on. -/

open Sys2Proof Sys2Proof.Machine

/-- Decoding the words of a well-formed instruction gives it back. For every well-formed instruction, with every
operand at every value its field admits, the decoder reads the words the encoder writes as that same
instruction. No bit of an operand is dropped. (NOP is not well-formed: its word is MOVE $0, $16, log 19.)
(30_encoding.md 2. Formats, 30_encoding.md 3. Immediates and operands, 30_encoding.md 4. The opcode map in
prose) -/
def Obligations.DecodeOfEncodeIsTheInstruction : Prop :=
  ∀ i : Instr, i.WellFormed → decode (encode i) = .ok i

/-- The bytes of a well-formed instruction decode to it in either byte order. The bytes of an instruction, its first
halfword at the lower address and each halfword (the whole word for 32-bit JALX) in the data byte order, decode
in its ISA mode to the instruction, and the rest of the list is left over, for both byte orders. The halfword
order and the byte order of a fetch are PRESUMED by the spec (D11, D26; log 12). (30_encoding.md R82,
20_memory.md R54, 30_encoding.md R81) -/
def Obligations.EncodedBytesDecodeInEitherByteOrder : Prop :=
  ∀ (be : Bool) (i : Instr) (rest : List Byte), i.WellFormed →
    decodeBytes be i.isa16 ((encode i).bytes be ++ rest) = .ok (i, rest)

/-- A code that decodes has one instruction, whose words it is. Whenever the decoder accepts a code, the instruction
it gives is well-formed and its words are exactly that code: no bit of an accepted word is ignored. The
rejection of other values of the fields drawn as zero is D18 (log 20). (30_encoding.md 4. The opcode map in
prose, 30_encoding.md R91) -/
def Obligations.DecodedCodeIsEncodedBack : Prop :=
  ∀ (c : Code) (i : Instr), decode c = .ok i → i.WellFormed ∧ encode i = c

/-- The decoder accepts a code exactly where a row of the opcode table selects it. With opcodeRow the match, mask
and width of each row of the opcode table: a code that decodes is selected by the row of the instruction it
decodes to, and a code that the row of some well-formed instruction selects decodes to an instruction of that
row. The decoder is written from the figures, not from the table. (30_encoding.md R92, opcode_table.json) -/
def Obligations.DecoderAgreesWithTheOpcodeTable : Prop :=
  (∀ (c : Code) (j : Instr), decode c = .ok j → selects c j) ∧
  ∀ (c : Code) (i : Instr), i.WellFormed → selects c i → ∃ j, decode c = .ok j ∧ opcodeRow j = opcodeRow i

/-- Every encoding the opcode map calls not in source is rejected by name. Halfwords of a major opcode with no
16-bit page, the unlisted RR, CNVT, J(AL)R(C), I8 and RRR functions, EXTEND before a halfword with no extended
form (EXTEND then RR among them), the unlisted SHIFT and RRI-A functions, and every 32-bit MIPS word but JALX
are rejected, each with the word in the reason. That they are refused is the spec’s decision (D7, D9, D18, D25;
log 20). (30_encoding.md R93, 30_encoding.md R94, 30_encoding.md R95, 30_encoding.md R96, 30_encoding.md R97,
30_encoding.md R98, 30_encoding.md R99, 30_encoding.md R100, 30_encoding.md R105) -/
def Obligations.EncodingsWithNoPageAreRejected : Prop :=
  (∀ hw : Half, Code.isWide hw = false →
    (Code.op hw ∉ [0b01100#5, 0b11100#5, 0b11101#5] ∨
      (Code.op hw = 0b01100#5 ∧ Code.rx hw ∈ [0b000#3, 0b001#3, 0b010#3, 0b011#3, 0b110#3]) ∨
      (Code.op hw = 0b11100#5 ∧ hw.extractLsb' 0 2 ∈ [0b00#2, 0b10#2]) ∨
      (Code.op hw = 0b11101#5 ∧ Code.f5 hw ∈ [0b01000#5, 0b01001#5, 0b10011#5, 0b10100#5, 0b10101#5, 0b10110#5,
        0b10111#5, 0b11100#5, 0b11101#5, 0b11110#5, 0b11111#5]) ∨
      (Code.op hw = 0b11101#5 ∧ Code.f5 hw = 0b10001#5 ∧ Code.ry hw ∈ [0b010#3, 0b011#3, 0b110#3, 0b111#3]) ∨
      (Code.op hw = 0b11101#5 ∧ Code.f5 hw = 0b00000#5 ∧ hw.getLsbD 6 = true ∧ hw.getLsbD 5 = true)) →
    decode (.half hw) = .error (.notInSource16 hw)) ∧
  (∀ hw1 hw2 : Half, Code.op hw1 = 0b11110#5 →
    (Code.op hw2 ∈ [0b00011#5, 0b00111#5, 0b01111#5, 0b10111#5, 0b11101#5, 0b11110#5, 0b11111#5] ∨
      (Code.op hw2 = 0b01100#5 ∧ Code.rx hw2 ∈ [0b101#3, 0b110#3, 0b111#3]) ∨
      (Code.op hw2 = 0b00110#5 ∧ hw2.extractLsb' 0 2 = 0b01#2) ∨
      (Code.op hw2 = 0b01000#5 ∧ hw2.getLsbD 4 = true)) →
    decode (.pair hw1 hw2) = .error (.notInSource32 (hw1 ++ hw2))) ∧
  (∀ w : Word, w.extractLsb' 26 6 ≠ 0b011101#6 → decode (.mips32 w) = .error (.mips32NotInSource w))

/-- An encoding whose field drawn as zero is not zero is rejected. MFHI and MFLO with bits 7:5 not zero, a J(AL)R(C)
halfword with ra = 1 and bits 10:8 not zero, EXT-RI and EXT-I8 (all but SAVE and RESTORE) with bits 7:5 not
zero, EXT-I with bits 10:5 not zero, and EXT-SHIFT with bits 21:16 or 4:2 not zero match no row. It is the
decision D18 of the spec (log 20). (30_encoding.md R91) -/
def Obligations.NonzeroZeroFieldsAreRejected : Prop :=
  (∀ hw : Half, Code.op hw = 0b11101#5 →
    ((Code.f5 hw ∈ [0b10000#5, 0b10010#5] ∧ Code.ry hw ≠ 0) ∨
      (Code.f5 hw = 0b00000#5 ∧ hw.getLsbD 5 = true ∧ Code.rx hw ≠ 0)) →
    decode (.half hw) = .error (.notInSource16 hw)) ∧
  (∀ hw1 hw2 : Half, Code.op hw1 = 0b11110#5 →
    ((Code.op hw2 ∈ [0b00000#5, 0b00001#5, 0b00100#5, 0b00101#5, 0b01001#5, 0b01010#5, 0b01011#5, 0b01101#5, 0b01110#5,
        0b10010#5, 0b10110#5, 0b11010#5] ∧ Code.ry hw2 ≠ 0) ∨
      (Code.op hw2 = 0b01100#5 ∧ Code.rx hw2 ∈ [0b000#3, 0b001#3, 0b010#3, 0b011#3] ∧ Code.ry hw2 ≠ 0) ∨
      (Code.op hw2 = 0b00010#5 ∧ hw2.extractLsb' 5 6 ≠ 0) ∨
      (Code.op hw2 = 0b00110#5 ∧ (hw1.extractLsb' 0 6 ≠ 0 ∨ hw2.extractLsb' 2 3 ≠ 0))) →
    decode (.pair hw1 hw2) = .error (.notInSource32 (hw1 ++ hw2)))

/-- Words printed in the spec’s examples decode to their instructions. Words from the Example lines of the families,
as the spec prints them, decode to the instruction of the line with the operands it names: ADDU $2,$3,$4; ADDIU
$3,$2,-16384; MOVE $24,$2; ASMACRO 3,31,2,5,17,6; BEQZ $2 with off16 -2; JAL 0x00401000; JALX 0x00401000; DIV
$2,$3; LB $2,-1($3); RESTORE (Extended); SRA $7,$6,16. (40_add_sub.md R125, 41_logical_move_compare.md R144,
42_system.md R170, 43_branch_jump.md R189, 43_branch_jump.md R190, 44_muldiv.md R210, 45_load_store.md R221,
46_save_restore.md R254, 47_shift.md R272) -/
def Obligations.SampleWordsDecode : Prop :=
  decode (.half 0xE389#16) = .ok (.addu 2 3 4) ∧
  decode (.pair 0xF008#16 0x4260#16) = .ok (.addiuRyRxImm 3 2 0x4000#15) ∧
  decode (.half 0x651A#16) = .ok (.moveR32Rz 24 2) ∧
  decode (.pair 0xF3D1#16 0xE55F#16) = .ok (.asmacro 3 31 2 5 17 6) ∧
  decode (.pair 0xF7FF#16 0x221E#16) = .ok (.beqz 2 0xFFFE#16) ∧
  decode (.pair 0x1A00#16 0x0400#16) = .ok (.jal 0x100400#26) ∧
  decode (.mips32 0x74100400#32) = .ok (.jalx 0x100400#26) ∧
  decode (.half 0xEA7A#16) = .ok (.div 2 3) ∧
  decode (.pair 0xF7FF#16 0x835F#16) = .ok (.lb 2 0xFFFF#16 3) ∧
  decode (.pair 0xF205#16 0x6476#16) = .ok (.restoreExt true true true 2 5 6) ∧
  decode (.pair 0xF400#16 0x37C3#16) = .ok (.sra 7 6 16)

/-- A MIPS16e step with no jump pending is exec of the instruction at pc. In MIPS16e mode, with no exception taken
and no jump pending, where the halfword at pc (and the next one, for a 32-bit instruction) can be fetched and
the bytes there decode to i, the step is exec of i: nothing else is added. Where a jump is pending,
DelaySlotStepTakesThePendingJump says what is added. (10_state.md R30, 20_memory.md R58) -/
def Obligations.StepRunsTheDecodedInstruction : Prop :=
  ∀ (s : State) (i : Instr) (rest : List Byte),
    s.exc = none → s.isaMode = true → s.delay = none →
    HalfFetchable s s.pc → (rest = [] → HalfFetchable s (s.pc + 2)) →
    decodeBytes s.cfg.bigEndian true (fourBytes s s.pc) = .ok (i, rest) →
    step s = exec i s

/-- The step of a delay slot runs its instruction and then takes the pending jump. In MIPS16e mode with a jump
pending, where the halfword at pc decodes to an instruction that is no branch or jump, the step runs it and
then, if it took no exception, goes to the target in the mode of the pending jump, with no jump pending; if it
took one, the step ends there. If the slot instruction changed the register the jump read so that it gives
another target or mode, the step faults (D17; log 16); a fault of the slot instruction is the step’s.
(10_state.md R28, 10_state.md R30, 60_exceptions.md R310) -/
def Obligations.DelaySlotStepTakesThePendingJump : Prop :=
  ∀ (s : State) (d : Delay) (i : Instr),
    s.exc = none → s.isaMode = true → s.delay = some d → HalfFetchable s s.pc →
    decode (.half (s.readHalf s.pc)) = .ok i → i.isBranchOrJump = false →
    (∀ t, exec i s = .next t →
      (t.exc ≠ none → step s = .next t) ∧
      (t.exc = none → JumpRegisterKept d t →
        step s = .next { t with delay := none, pc := d.target, isaMode := d.mode }) ∧
      (t.exc = none → ¬ JumpRegisterKept d t → step s = .fault (.unpredictable .jumpRegisterChanged))) ∧
    (∀ f, exec i s = .fault f → step s = .fault f)

/-- A 32-bit instruction, branch or jump in a delay slot is a fault. In MIPS16e mode with a jump pending, a first
halfword that begins a 32-bit instruction (whose second halfword can be fetched) faults before it is decoded,
and a 16-bit branch or jump faults. The source calls the second UNPREDICTABLE; that both are model faults is the
decision D17 (log 15). (10_state.md R30, 70_reset_and_hazards.md R350) -/
def Obligations.DelaySlotRestrictions : Prop :=
  ∀ (s : State) (d : Delay),
    s.exc = none → s.isaMode = true → s.delay = some d → HalfFetchable s s.pc →
    (Code.isWide (s.readHalf s.pc) = true → HalfFetchable s (s.pc + 2) →
      step s = .fault (.unpredictable .wideInDelaySlot)) ∧
    (∀ i, decode (.half (s.readHalf s.pc)) = .ok i → i.isBranchOrJump = true →
      step s = .fault (.unpredictable .jumpInDelaySlot))

/-- A fetch outside cfg.mem, or of a byte stored to since launch, is a fault. In MIPS16e mode the step faults with
UnmappedAccess where a halfword of the instruction is not admitted for a fetch, and with FetchOfWrittenMemory
where it is and one of its bytes was stored to since launch; both for the first halfword and, where that begins
a 32-bit instruction and can be fetched, for the second. In 32-bit mode at a multiple of 4 the same holds of the
word at pc, which is fetched whole. Decisions D5 and D20; that D20 reaches the word of 32-bit mode is the
model’s reading (log 21, 23). (20_memory.md R58, 20_memory.md R63, 20_memory.md R57) -/
def Obligations.FetchStopsOutsideMemoryAndOnWrittenBytes : Prop :=
  ∀ s : State, s.exc = none →
    (s.isaMode = true →
      (admits s.cfg s.pc 2 .fetch = false → step s = .fault (.unmappedAccess s.pc .fetch)) ∧
      (admits s.cfg s.pc 2 .fetch = true → s.pc.toNat ∈ s.written ∨ (s.pc + 1).toNat ∈ s.written →
        step s = .fault (.fetchOfWrittenMemory s.pc)) ∧
      (HalfFetchable s s.pc → Code.isWide (s.readHalf s.pc) = true →
        (admits s.cfg (s.pc + 2) 2 .fetch = false → step s = .fault (.unmappedAccess (s.pc + 2) .fetch)) ∧
        (admits s.cfg (s.pc + 2) 2 .fetch = true → (s.pc + 2).toNat ∈ s.written ∨ (s.pc + 3).toNat ∈ s.written →
          step s = .fault (.fetchOfWrittenMemory (s.pc + 2))))) ∧
    (s.isaMode = false → s.pc.extractLsb' 0 2 = 0 →
      (admits s.cfg s.pc 4 .fetch = false → step s = .fault (.unmappedAccess s.pc .fetch)) ∧
      (admits s.cfg s.pc 4 .fetch = true → (∃ k, k < 4 ∧ (byteAddr s.pc k).toNat ∈ s.written) →
        step s = .fault (.fetchOfWrittenMemory s.pc)))

/-- In 32-bit mode a step raises Address Error, runs JALX, or refuses the word. With ISAMode = 0 and no exception
taken: where pc is no multiple of 4 the step takes Address Error with pc as the address and changes nothing
else; where it is and the word can be fetched, a JALX runs if no jump is pending and is refused in a delay slot
(log 17), and any other word is refused (D9). (10_state.md R33, 60_exceptions.md R301, 43_branch_jump.md R190) -/
def Obligations.StepIn32BitMode : Prop :=
  ∀ s : State, s.exc = none → s.isaMode = false →
    (s.pc.extractLsb' 0 2 ≠ 0 →
      ∃ t, step s = .next t ∧ t.exc = some ⟨.addressError, s.pc, s.delay.isSome, some s.pc⟩ ∧ t.delay = none ∧
        t.pc = s.pc ∧ t.isaMode = s.isaMode ∧ SameGprExcept [] s t ∧ SameHiLo s t ∧ SameMem s t ∧
        t.debugDM = s.debugDM ∧ t.debugDExcCode = s.debugDExcCode ∧ t.depc = s.depc ∧ t.watchHi = s.watchHi ∧
        t.watchLo = s.watchLo ∧ t.cfg = s.cfg) ∧
    (s.pc.extractLsb' 0 2 = 0 → admits s.cfg s.pc 4 .fetch = true →
      (∀ k, k < 4 → (byteAddr s.pc k).toNat ∉ s.written) →
      (∀ index : BitVec 26, s.readWord s.pc = 0b011101#6 ++ index →
        (s.delay = none → step s = exec (.jalx index) s) ∧
        (s.delay ≠ none → step s = .refused (.jalxInDelaySlot (s.readWord s.pc)))) ∧
      ((s.readWord s.pc).extractLsb' 26 6 ≠ 0b011101#6 → step s = .refused (.mips32NotInSource (s.readWord s.pc))))

/-- No step is taken after an exception. A step from a state in which an exception has been taken is a fault that
carries the record of the exception. That an exception ends the run is the decision D12; the source gives no
handler address (log 5). (60_exceptions.md R310) -/
def Obligations.NothingFollowsAnException : Prop :=
  ∀ (s : State) (e : ExcRecord), s.exc = some e → step s = .fault (.exceptionTaken e)

/-- JR ra and a NOP in its delay slot reach the address in GPR 31 in two steps. In MIPS16e mode, where the halfwords
at pc and pc + 2 can be fetched and are 0xE820 (JR ra) and 0x6500 (NOP): after one step the jump is pending and
pc is the slot; after the second pc is GPR 31 with bit 0 cleared, ISAMode is its bit 0, no jump is pending, and
no register, memory or system state has changed. (43_branch_jump.md R193, 10_state.md R28, 43_branch_jump.md
R181) -/
def Obligations.ReturnThroughItsDelaySlot : Prop :=
  ∀ s : State, s.exc = none → s.isaMode = true → s.delay = none →
    HalfFetchable s s.pc → HalfFetchable s (s.pc + 2) →
    s.readHalf s.pc = 0xE820#16 → s.readHalf (s.pc + 2) = 0x6500#16 →
    ∃ t u, step s = .next t ∧ step t = .next u ∧
      t.delay = some ⟨s.readGpr 31 &&& 0xFFFFFFFE, (s.readGpr 31).getLsbD 0, some 31⟩ ∧ t.pc = s.pc + 2 ∧
      t.isaMode = true ∧
      u.pc = s.readGpr 31 &&& 0xFFFFFFFE ∧ u.isaMode = (s.readGpr 31).getLsbD 0 ∧ u.delay = none ∧
      SameGprExcept [] s u ∧ SameHiLo s u ∧ SameSystem s u ∧ SameMem s u

/-- ADDIU rx,imm; rx,sp,imm; ry,rx,imm; sp,imm add the sign-extended immediate modulo 2^32. In every state each of
the four forms completes: its destination receives the base register plus the sign-extended, unscaled immediate
(15 bits in the ry, rx form, 16 in the others), modulo 2^32, and pc moves by 4; its words have the fixed bits of
its format. Every other register, HI, LO, ISAMode, the pending jump, the debug and watch registers and memory
are unchanged. (R120, R122, R123, R124) -/
def Obligations.AddImmediateForms : Prop :=
  ∀ (rx ry : BitVec 3) (imm : BitVec 16) (imm15 : BitVec 15) (s : State),
    (EncodedAs (.addiuRxImm rx imm) 4 0xF0004800 0xF800F8E0 ∧
      Computes (.addiuRxImm rx imm) s (xlat rx) (s.readGpr (xlat rx) + imm.signExtend 32) 4) ∧
    (EncodedAs (.addiuRxSpImm rx imm) 4 0xF0000000 0xF800F8E0 ∧
      Computes (.addiuRxSpImm rx imm) s (xlat rx) (s.readGpr 29 + imm.signExtend 32) 4) ∧
    (EncodedAs (.addiuRyRxImm ry rx imm15) 4 0xF0004000 0xF800F810 ∧
      Computes (.addiuRyRxImm ry rx imm15) s (xlat ry) (s.readGpr (xlat rx) + imm15.signExtend 32) 4) ∧
    (EncodedAs (.addiuSpImm imm) 4 0xF0006300 0xF800FFE0 ∧
      Computes (.addiuSpImm imm) s 29 (s.readGpr 29 + imm.signExtend 32) 4)

/-- ADDIU rx,pc,imm adds to the address of the instruction with its two low bits cleared. In every state ADDIU rx,
pc, imm completes: rx receives (pc with bits 1:0 cleared) plus the sign-extended immediate and pc moves by 4.
Every other register, HI, LO, ISAMode, the pending jump, the debug and watch registers and memory are unchanged.
In a delay slot its words are a fault (D17; log 15). (40_add_sub.md R121, 10_state.md R30) -/
def Obligations.AddImmediateToPc : Prop :=
  ∀ (rx : BitVec 3) (imm : BitVec 16) (s : State),
    EncodedAs (.addiuRxPcImm rx imm) 4 0xF0000800 0xF800F8E0 ∧
    Computes (.addiuRxPcImm rx imm) s (xlat rx) ((s.pc &&& 0xFFFFFFFC) + imm.signExtend 32) 4 ∧
    (s.delay ≠ none → s.runCode (encode (.addiuRxPcImm rx imm)) = .fault (.unpredictable .wideInDelaySlot))

/-- ADDU, SUBU and NEG compute modulo 2^32 and never trap. In every state ADDU leaves rx + ry in rz, SUBU rx - ry in
rz and NEG 0 - ry in rx, modulo 2^32, each completing with pc moved by 2; their halfwords have the fixed bits of
their format. Every other register, HI, LO, ISAMode, the pending jump, the debug and watch registers and memory
are unchanged. (R125, R126, R127) -/
def Obligations.AddSubtractNegate : Prop :=
  ∀ (rx ry rz : BitVec 3) (s : State),
    (EncodedAs (.addu rz rx ry) 2 0xE001 0xF803 ∧
      Computes (.addu rz rx ry) s (xlat rz) (s.readGpr (xlat rx) + s.readGpr (xlat ry)) 2) ∧
    (EncodedAs (.neg rx ry) 2 0xE80B 0xF81F ∧
      Computes (.neg rx ry) s (xlat rx) (0 - s.readGpr (xlat ry)) 2) ∧
    (EncodedAs (.subu rz rx ry) 2 0xE003 0xF803 ∧
      Computes (.subu rz rx ry) s (xlat rz) (s.readGpr (xlat rx) - s.readGpr (xlat ry)) 2)

/-- AND, OR, XOR and NOT act on each of the 32 bits. In every state AND, OR and XOR leave in rx, and NOT leaves in
rx the complement of ry, the value whose every bit is that operation of the operands’ bits, each completing with
pc moved by 2; their halfwords have the fixed bits of their format. Every other register, HI, LO, ISAMode, the
pending jump, the debug and watch registers and memory are unchanged. (R140, R147, R148, R155) -/
def Obligations.BitwiseOperations : Prop :=
  ∀ (rx ry : BitVec 3) (s : State),
    (EncodedAs (.and rx ry) 2 0xE80C 0xF81F ∧ ∃ v, Computes (.and rx ry) s (xlat rx) v 2 ∧
      ∀ b, b < 32 → v.getLsbD b = ((s.readGpr (xlat rx)).getLsbD b && (s.readGpr (xlat ry)).getLsbD b)) ∧
    (EncodedAs (.not rx ry) 2 0xE80F 0xF81F ∧ ∃ v, Computes (.not rx ry) s (xlat rx) v 2 ∧
      ∀ b, b < 32 → v.getLsbD b = !(s.readGpr (xlat ry)).getLsbD b) ∧
    (EncodedAs (.or rx ry) 2 0xE80D 0xF81F ∧ ∃ v, Computes (.or rx ry) s (xlat rx) v 2 ∧
      ∀ b, b < 32 → v.getLsbD b = ((s.readGpr (xlat rx)).getLsbD b || (s.readGpr (xlat ry)).getLsbD b)) ∧
    (EncodedAs (.xor rx ry) 2 0xE80E 0xF81F ∧ ∃ v, Computes (.xor rx ry) s (xlat rx) v 2 ∧
      ∀ b, b < 32 → v.getLsbD b = ((s.readGpr (xlat rx)).getLsbD b != (s.readGpr (xlat ry)).getLsbD b))

/-- CMP and CMPI leave the exclusive-or in GPR 24, zero exactly when the operands are equal. In every state CMP
leaves rx xor ry, and CMPI rx xor the zero-extended immediate, in GPR 24; that value is 0 exactly when the
operands are equal; both complete, pc moving by 2 and 4; their words have the fixed bits of their format. Every
other register, HI, LO, ISAMode, the pending jump, the debug and watch registers and memory are unchanged.
(R141, R142) -/
def Obligations.CompareLeavesTheDifferenceInT : Prop :=
  ∀ (rx ry : BitVec 3) (imm : BitVec 16) (s : State),
    (EncodedAs (.cmpi rx imm) 4 0xF0007000 0xF800F8E0 ∧ ∃ v, Computes (.cmpi rx imm) s 24 v 4 ∧
      v = s.readGpr (xlat rx) ^^^ imm.setWidth 32 ∧ (v = 0 ↔ (s.readGpr (xlat rx)).toNat = imm.toNat)) ∧
    (EncodedAs (.cmp rx ry) 2 0xE80A 0xF81F ∧ ∃ v, Computes (.cmp rx ry) s 24 v 2 ∧
      v = s.readGpr (xlat ry) ^^^ s.readGpr (xlat rx) ∧ (v = 0 ↔ s.readGpr (xlat rx) = s.readGpr (xlat ry)))

/-- LI, SEB, SEH, ZEB and ZEH leave the extended value. In every state LI leaves in rx the natural number its
immediate encodes, ZEB and ZEH the low byte and halfword of rx as a natural number, SEB and SEH the same bits as
a two’s complement integer; each completes, pc moving by 4 for LI and 2 for the others; their words have the
fixed bits of their format. Every other register, HI, LO, ISAMode, the pending jump, the debug and watch
registers and memory are unchanged. (R143, R149, R150, R156, R157) -/
def Obligations.LoadImmediateAndExtend : Prop :=
  ∀ (rx : BitVec 3) (imm : BitVec 16) (s : State),
    (EncodedAs (.li rx imm) 4 0xF0006800 0xF800F8E0 ∧
      ∃ v, Computes (.li rx imm) s (xlat rx) v 4 ∧ v.toNat = imm.toNat) ∧
    (EncodedAs (.seb rx) 2 0xE891 0xF8FF ∧ ∃ v, Computes (.seb rx) s (xlat rx) v 2 ∧
      v.toInt = ((s.readGpr (xlat rx)).extractLsb' 0 8).toInt) ∧
    (EncodedAs (.seh rx) 2 0xE8B1 0xF8FF ∧ ∃ v, Computes (.seh rx) s (xlat rx) v 2 ∧
      v.toInt = ((s.readGpr (xlat rx)).extractLsb' 0 16).toInt) ∧
    (EncodedAs (.zeb rx) 2 0xE811 0xF8FF ∧ ∃ v, Computes (.zeb rx) s (xlat rx) v 2 ∧
      v.toNat = (s.readGpr (xlat rx)).toNat % 256) ∧
    (EncodedAs (.zeh rx) 2 0xE831 0xF8FF ∧ ∃ v, Computes (.zeh rx) s (xlat rx) v 2 ∧
      v.toNat = (s.readGpr (xlat rx)).toNat % 65536)

/-- The two MOVEs copy between an Xlat register and any of the 32, and GPR 0 discards writes. In every state MOVE
r32, rz leaves rz in the register r32 names directly, or changes no register when r32 is 0; MOVE ry, r32 leaves
r32 in ry, which is 0 when r32 is 0 (PRESUMED by D15, log 11). Both complete, pc moving by 2. The halfword of
MOVE r32, rz holds r32[2:0] in bits 7:5 and r32[4:3] in bits 4:3. Every other register, HI, LO, ISAMode, the
pending jump, the debug and watch registers and memory are unchanged. (41_logical_move_compare.md R144,
41_logical_move_compare.md R145, 10_state.md R21, 30_encoding.md R83) -/
def Obligations.MoveReachesEveryRegister : Prop :=
  ∀ (r32 : BitVec 5) (rz ry : BitVec 3) (s : State),
    (EncodedAs (.moveR32Rz r32 rz) 2 0x6500 0xFF00 ∧
      (∃ hw, encode (.moveR32Rz r32 rz) = .half hw ∧ hw.extractLsb' 5 3 = r32.extractLsb' 0 3 ∧
        hw.extractLsb' 3 2 = r32.extractLsb' 3 2 ∧ hw.extractLsb' 0 3 = rz) ∧
      (r32 ≠ 0 → Computes (.moveR32Rz r32 rz) s r32.toFin (s.readGpr (xlat rz)) 2) ∧
      (r32 = 0 → ∃ t, exec (.moveR32Rz r32 rz) s = .next t ∧ t.pc = s.pc + 2 ∧
        SameGprExcept [] s t ∧ SameHiLo s t ∧ SameControl s t ∧ SameSystem s t ∧ SameMem s t)) ∧
    (EncodedAs (.moveRyR32 ry r32) 2 0x6700 0xFF00 ∧
      Computes (.moveRyR32 ry r32) s (xlat ry) (if r32 = 0 then 0 else s.gpr[r32.toFin]) 2)

/-- NOP and every MOVE to GPR 0 change nothing but pc. The halfword 0x6500 is MOVE r32, rz with r32 and rz zero and
is the encoding of NOP; in every state NOP, that MOVE and each of the eight MOVEs 0x6500 to 0x6507 complete in
the state that differs only in pc, moved by 2. (R146) -/
def Obligations.NopChangesOnlyPc : Prop :=
  encode .nop = .half 0x6500#16 ∧ decode (.half 0x6500#16) = .ok (.moveR32Rz 0 0) ∧
  ∀ s : State, exec .nop s = .next { s with pc := s.pc + 2 } ∧
    ∀ rz : BitVec 3, decode (.half (0b0110010100000#13 ++ rz)) = .ok (.moveR32Rz 0 rz) ∧
      exec (.moveR32Rz 0 rz) s = .next { s with pc := s.pc + 2 }

/-- SLT, SLTU, SLTI and SLTIU leave 1 or 0 in GPR 24 by the comparison of the true integers. In every state the four
leave in GPR 24 the number 1 if the first operand is less and 0 if not: as signed integers for SLT and SLTI, as
natural numbers for SLTU and SLTIU; the immediate is sign-extended in both. Each completes, pc moving by 2
(register forms) or 4; their words have the fixed bits of their format. Every other register, HI, LO, ISAMode,
the pending jump, the debug and watch registers and memory are unchanged. (R151, R152, R153, R154) -/
def Obligations.SetOnLessThan : Prop :=
  ∀ (rx ry : BitVec 3) (imm : BitVec 16) (s : State),
    (EncodedAs (.slti rx imm) 4 0xF0005000 0xF800F8E0 ∧ ∃ v, Computes (.slti rx imm) s 24 v 4 ∧
      v.toNat = if (s.readGpr (xlat rx)).toInt < imm.toInt then 1 else 0) ∧
    (EncodedAs (.sltiu rx imm) 4 0xF0005800 0xF800F8E0 ∧ ∃ v, Computes (.sltiu rx imm) s 24 v 4 ∧
      v.toNat = if (s.readGpr (xlat rx)).toNat < (imm.signExtend 32).toNat then 1 else 0) ∧
    (EncodedAs (.slt rx ry) 2 0xE802 0xF81F ∧ ∃ v, Computes (.slt rx ry) s 24 v 2 ∧
      v.toNat = if (s.readGpr (xlat rx)).toInt < (s.readGpr (xlat ry)).toInt then 1 else 0) ∧
    (EncodedAs (.sltu rx ry) 2 0xE803 0xF81F ∧ ∃ v, Computes (.sltu rx ry) s 24 v 2 ∧
      v.toNat = if (s.readGpr (xlat rx)).toNat < (s.readGpr (xlat ry)).toNat then 1 else 0)

/-- SLL, SRL and SRA by a field: the arithmetic of the shifted value. In every state SLL leaves ry * 2^sa modulo
2^32 in rx, SRL the floor of ry / 2^sa as natural numbers, SRA the floor of ry / 2^sa as signed integers; each
completes with pc moved by 4; their words have the fixed bits of EXT-SHIFT. Every other register, HI, LO,
ISAMode, the pending jump, the debug and watch registers and memory are unchanged. (R270, R272, R274) -/
def Obligations.FixedShifts : Prop :=
  ∀ (rx ry : BitVec 3) (sa : BitVec 5) (s : State),
    (EncodedAs (.sll rx ry sa) 4 0xF0003000 0xF83FF81F ∧ ∃ v, Computes (.sll rx ry sa) s (xlat rx) v 4 ∧
      v.toNat = (s.readGpr (xlat ry)).toNat * 2 ^ sa.toNat % 4294967296) ∧
    (EncodedAs (.sra rx ry sa) 4 0xF0003003 0xF83FF81F ∧ ∃ v, Computes (.sra rx ry sa) s (xlat rx) v 4 ∧
      v.toInt = (s.readGpr (xlat ry)).toInt / 2 ^ sa.toNat) ∧
    (EncodedAs (.srl rx ry sa) 4 0xF0003002 0xF83FF81F ∧ ∃ v, Computes (.srl rx ry sa) s (xlat rx) v 4 ∧
      v.toNat = (s.readGpr (xlat ry)).toNat / 2 ^ sa.toNat)

/-- SLLV, SRLV and SRAV shift by the five low bits of rx. In every state the variable shifts leave in ry its own
value shifted by the natural number of the 5 low bits of rx, bits 31:5 of rx being ignored: multiplied by the
power of 2 modulo 2^32 (SLLV), divided to the floor as a natural number (SRLV) or as a signed integer (SRAV).
Each completes with pc moved by 2; their halfwords have the fixed bits of RR. Every other register, HI, LO,
ISAMode, the pending jump, the debug and watch registers and memory are unchanged. (R271, R273, R275) -/
def Obligations.VariableShifts : Prop :=
  ∀ (rx ry : BitVec 3) (s : State),
    (EncodedAs (.sllv ry rx) 2 0xE804 0xF81F ∧ ∃ v, Computes (.sllv ry rx) s (xlat ry) v 2 ∧
      v.toNat = (s.readGpr (xlat ry)).toNat * 2 ^ ((s.readGpr (xlat rx)).toNat % 32) % 4294967296) ∧
    (EncodedAs (.srav ry rx) 2 0xE807 0xF81F ∧ ∃ v, Computes (.srav ry rx) s (xlat ry) v 2 ∧
      v.toInt = (s.readGpr (xlat ry)).toInt / 2 ^ ((s.readGpr (xlat rx)).toNat % 32)) ∧
    (EncodedAs (.srlv ry rx) 2 0xE806 0xF81F ∧ ∃ v, Computes (.srlv ry rx) s (xlat ry) v 2 ∧
      v.toNat = (s.readGpr (xlat ry)).toNat / 2 ^ ((s.readGpr (xlat rx)).toNat % 32))

/-- MULT and MULTU leave the exact 64-bit product in HI and LO. In every state MULT and MULTU complete with HI and
LO together, HI the high word, equal as a 64-bit integer (signed for MULT, natural for MULTU) to the product of
the operands read so; pc moves by 2. No general register, ISAMode, pending jump, debug or watch register or
memory changes. Their halfwords have the fixed bits of RR. (R214, R215) -/
def Obligations.MultiplyLeavesTheExactProduct : Prop :=
  ∀ (rx ry : BitVec 3) (s : State),
    (EncodedAs (.mult rx ry) 2 0xE818 0xF81F ∧ ∃ hi lo, LeavesHiLo (.mult rx ry) s hi lo ∧
      (hi ++ lo).toInt = (s.readGpr (xlat rx)).toInt * (s.readGpr (xlat ry)).toInt) ∧
    (EncodedAs (.multu rx ry) 2 0xE819 0xF81F ∧ ∃ hi lo, LeavesHiLo (.multu rx ry) s hi lo ∧
      (hi ++ lo).toNat = (s.readGpr (xlat rx)).toNat * (s.readGpr (xlat ry)).toNat)

/-- DIV leaves the quotient rounded toward zero and a remainder with the dividend’s sign. Where the divisor is not 0
and the operands are not -2^31 and -1, DIV completes with quotient in LO and remainder in HI such that dividend
= quotient * divisor + remainder, the remainder is smaller in size than the divisor and has no sign opposite to
the dividend’s. Rounding toward zero is PRESUMED by the spec (D16; log 13). Only HI, LO and pc (by 2) change.
(44_muldiv.md R210) -/
def Obligations.SignedDivideTruncates : Prop :=
  ∀ (rx ry : BitVec 3) (s : State), EncodedAs (.div rx ry) 2 0xE81A 0xF81F ∧
    ((s.readGpr (xlat ry)).toInt ≠ 0 →
      ¬ ((s.readGpr (xlat rx)).toInt = -2147483648 ∧ (s.readGpr (xlat ry)).toInt = -1) →
      ∃ hi lo, LeavesHiLo (.div rx ry) s hi lo ∧
        (s.readGpr (xlat rx)).toInt = lo.toInt * (s.readGpr (xlat ry)).toInt + hi.toInt ∧
        hi.toInt.natAbs < (s.readGpr (xlat ry)).toInt.natAbs ∧ 0 ≤ hi.toInt * (s.readGpr (xlat rx)).toInt)

/-- DIVU by a divisor other than 0 leaves the floor quotient and its remainder. Where the divisor is not 0, DIVU
completes with quotient in LO and remainder in HI, as natural numbers: dividend = quotient * divisor +
remainder, with the remainder below the divisor. Only HI, LO and pc (by 2) change. The zero divisor is stated
apart. (44_muldiv.md R211) -/
def Obligations.UnsignedDivideLeavesQuotientAndRemainder : Prop :=
  ∀ (rx ry : BitVec 3) (s : State), EncodedAs (.divu rx ry) 2 0xE81B 0xF81F ∧
    ((s.readGpr (xlat ry)).toNat ≠ 0 →
      ∃ hi lo, LeavesHiLo (.divu rx ry) s hi lo ∧
        (s.readGpr (xlat rx)).toNat = lo.toNat * (s.readGpr (xlat ry)).toNat + hi.toNat ∧
        hi.toNat < (s.readGpr (xlat ry)).toNat)

/-- DIV and DIVU by zero, and DIV of -2^31 by -1, complete and change only HI and LO. By a zero divisor DIV and DIVU
complete, and DIV of 0x80000000 by 0xFFFFFFFF completes: pc moves by 2, nothing traps, and nothing but HI and LO
changes. The two hold free values, of which nothing is said (log 14). (44_muldiv.md R210, 44_muldiv.md R211) -/
def Obligations.DivideWithNoStatedResultCompletes : Prop :=
  ∀ (rx ry : BitVec 3) (s : State) (i : Instr),
    ((i = .div rx ry ∧ s.readGpr (xlat ry) = 0) ∨ (i = .divu rx ry ∧ s.readGpr (xlat ry) = 0) ∨
      (i = .div rx ry ∧ s.readGpr (xlat rx) = 0x80000000 ∧ s.readGpr (xlat ry) = 0xFFFFFFFF)) →
    ∃ t, exec i s = .next t ∧ t.pc = s.pc + 2 ∧ SameGprExcept [] s t ∧ SameControl s t ∧ SameSystem s t ∧ SameMem s t

/-- MFHI and MFLO copy HI and LO to a register. In every state MFHI leaves HI and MFLO leaves LO in rx, completing
with pc moved by 2; HI and LO keep their values. Every other register, HI, LO, ISAMode, the pending jump, the
debug and watch registers and memory are unchanged. (The spec’s fault on a register nothing has written is not
modelled: every register holds a value, log 1.) (44_muldiv.md R212, 44_muldiv.md R213) -/
def Obligations.MoveFromHiAndLo : Prop :=
  ∀ (rx : BitVec 3) (s : State),
    (EncodedAs (.mfhi rx) 2 0xE810 0xF8FF ∧ Computes (.mfhi rx) s (xlat rx) s.hi 2) ∧
    (EncodedAs (.mflo rx) 2 0xE812 0xF8FF ∧ Computes (.mflo rx) s (xlat rx) s.lo 2)

/-- The five branches go to pc + 4 + 2 * offset or fall to pc + 4. In every state B goes to pc + 4 plus twice the
sign-extended offset, modulo 2^32; BEQZ and BNEZ do so when rx is zero, is not zero, BTEQZ and BTNEZ when GPR 24
is, and otherwise go to pc + 4. Each completes at once with nothing but pc changed (no jump is made pending);
their words have the fixed bits of their format. The reach is -65536 to +65534 bytes from pc + 4, and from an
even pc the target is even. (That a branch may not stand in a delay slot is 10_state R30, which
DelaySlotRestrictions states.) (R180, R182, R183, R184, R185, R186) -/
def Obligations.Branches : Prop :=
  ∀ (rx : BitVec 3) (off : BitVec 16) (s : State),
    (EncodedAs (.beqz rx off) 4 0xF0002000 0xF800F8E0 ∧ GoesTo (.beqz rx off) s
      (if s.readGpr (xlat rx) = 0 then s.pc + 4 + off.signExtend 32 * 2 else s.pc + 4) s.isaMode) ∧
    (EncodedAs (.bnez rx off) 4 0xF0002800 0xF800F8E0 ∧ GoesTo (.bnez rx off) s
      (if s.readGpr (xlat rx) ≠ 0 then s.pc + 4 + off.signExtend 32 * 2 else s.pc + 4) s.isaMode) ∧
    (EncodedAs (.b off) 4 0xF0001000 0xF800FFE0 ∧ GoesTo (.b off) s (s.pc + 4 + off.signExtend 32 * 2) s.isaMode) ∧
    (EncodedAs (.bteqz off) 4 0xF0006000 0xF800FFE0 ∧ GoesTo (.bteqz off) s
      (if s.readGpr 24 = 0 then s.pc + 4 + off.signExtend 32 * 2 else s.pc + 4) s.isaMode) ∧
    (EncodedAs (.btnez off) 4 0xF0006100 0xF800FFE0 ∧ GoesTo (.btnez off) s
      (if s.readGpr 24 ≠ 0 then s.pc + 4 + off.signExtend 32 * 2 else s.pc + 4) s.isaMode) ∧
    (-65536 ≤ (off.signExtend 32 * 2).toInt ∧ (off.signExtend 32 * 2).toInt ≤ 65534) ∧
    (s.pc.getLsbD 0 = false → (s.pc + 4 + off.signExtend 32 * 2).getLsbD 0 = false)

/-- JRC and JALRC go at once to the register’s address in the mode of its bit 0. In every state JRC ra, JRC rx and
JALRC complete with pc the register’s value with bit 0 cleared and ISAMode its bit 0, no jump made pending;
JALRC also leaves (pc + 2) with bit 0 replaced by the old ISAMode in GPR 31. Nothing else changes. If the new
mode is 32-bit and bit 1 of the address is set, the step that follows raises Address Error there.
(43_branch_jump.md R181, 43_branch_jump.md R187, 43_branch_jump.md R191, 43_branch_jump.md R192) -/
def Obligations.CompactJumps : Prop :=
  ∀ (rx : BitVec 3) (s : State),
    (EncodedAs .jrcRa 2 0xE8A0 0xFFFF ∧ GoesTo .jrcRa s (s.readGpr 31 &&& 0xFFFFFFFE) ((s.readGpr 31).getLsbD 0)) ∧
    (EncodedAs (.jrcRx rx) 2 0xE880 0xF8FF ∧
      GoesTo (.jrcRx rx) s (s.readGpr (xlat rx) &&& 0xFFFFFFFE) ((s.readGpr (xlat rx)).getLsbD 0)) ∧
    (EncodedAs (.jalrc rx) 2 0xE8C0 0xF8FF ∧ ∃ t, exec (.jalrc rx) s = .next t ∧
      t.pc = s.readGpr (xlat rx) &&& 0xFFFFFFFE ∧ t.isaMode = (s.readGpr (xlat rx)).getLsbD 0 ∧ t.delay = s.delay ∧
      t.readGpr 31 = ((s.pc + 2) &&& 0xFFFFFFFE ||| if s.isaMode then 1 else 0) ∧
      SameGprExcept [31] s t ∧ SameHiLo s t ∧ SameSystem s t ∧ SameMem s t) ∧
    (s.exc = none → s.delay = none → ∀ i t, (i = .jrcRa ∨ i = .jrcRx rx ∨ i = .jalrc rx) → exec i s = .next t →
      t.isaMode = false → t.pc.getLsbD 1 = true →
      ∃ u, step t = .next u ∧ u.exc = some ⟨.addressError, t.pc, false, some t.pc⟩)

/-- JR ra, JR rx and JALR make the jump through their register pending. In every state the three complete with pc
moved by 2 and a pending jump to the register’s value with bit 0 cleared, in the mode of its bit 0, that
remembers the register; JALR also leaves (pc + 4) with bit 0 replaced by ISAMode in GPR 31. Nothing else
changes; their halfwords have the fixed bits of RR-J. (43_branch_jump.md R181, 43_branch_jump.md R188,
43_branch_jump.md R193, 43_branch_jump.md R194, 10_state.md R28) -/
def Obligations.JumpsWithADelaySlot : Prop :=
  ∀ (rx : BitVec 3) (s : State),
    (EncodedAs .jrRa 2 0xE820 0xFFFF ∧ SetsDelay .jrRa s 2 none
      ⟨s.readGpr 31 &&& 0xFFFFFFFE, (s.readGpr 31).getLsbD 0, some 31⟩) ∧
    (EncodedAs (.jrRx rx) 2 0xE800 0xF8FF ∧ SetsDelay (.jrRx rx) s 2 none
      ⟨s.readGpr (xlat rx) &&& 0xFFFFFFFE, (s.readGpr (xlat rx)).getLsbD 0, some (xlat rx)⟩) ∧
    (EncodedAs (.jalr rx) 2 0xE840 0xF8FF ∧
      SetsDelay (.jalr rx) s 2 (some ((s.pc + 4) &&& 0xFFFFFFFE ||| if s.isaMode then 1 else 0))
        ⟨s.readGpr (xlat rx) &&& 0xFFFFFFFE, (s.readGpr (xlat rx)).getLsbD 0, some (xlat rx)⟩)

/-- JAL and JALX link past the delay slot and make a jump within the 256 MB region pending. In every state JAL
completes with (pc + 6) in GPR 31, bit 0 replaced by ISAMode, and a pending jump in the same mode; JALX (32-bit
format) with pc + 8 in GPR 31 and a pending jump in the other mode. The target’s bits 31:28 are those of pc + 4
and bits 27:0 four times the field. pc moves by 4 and nothing else changes. For JALX 70_reset R351 says pc + 6,
against the pc + 8 of R190: the model follows R190 (log 38). (43_branch_jump.md R189, 43_branch_jump.md R190) -/
def Obligations.RegionJumps : Prop :=
  ∀ (target : BitVec 26) (s : State),
    (EncodedAs (.jal target) 4 0x18000000 0xFC000000 ∧
      SetsDelay (.jal target) s 4 (some ((s.pc + 6) &&& 0xFFFFFFFE ||| if s.isaMode then 1 else 0))
        ⟨((s.pc + 4) &&& 0xF0000000) + target.setWidth 32 * 4, s.isaMode, none⟩) ∧
    (EncodedAs (.jalx target) 4 0x74000000 0xFC000000 ∧
      SetsDelay (.jalx target) s 4 (some (s.pc + 8))
        ⟨((s.pc + 4) &&& 0xF0000000) + target.setWidth 32 * 4, !s.isaMode, none⟩)

/-- JALX in MIPS16e format is decoded and refused by name. A word of JALX in MIPS16e format (its fixed bits those of
the opcode table) decodes to it, and in every state it is refused under a name of its own: its meaning is not in
the source (decision D8, log 18). (43_branch_jump.md R195) -/
def Obligations.Jalx16IsRefused : Prop :=
  ∀ (target : BitVec 26) (s : State),
    EncodedAs (.jalx16 target) 4 0x1C000000 0xFC000000 ∧ decode (encode (.jalx16 target)) = .ok (.jalx16 target) ∧
    exec (.jalx16 target) s = .refused .jalx16NotInSource

/-- LB and LBU load the byte at rx + offset, sign- and zero-extended, at any alignment. Where one byte at rx plus
the sign-extended offset (modulo 2^32) is admitted for a load, LB leaves it in ry as a signed integer and LBU as
a natural number; both complete with pc moved by 4. Every other register, HI, LO, ISAMode, the pending jump, the
debug and watch registers and memory are unchanged. That an access is made where cfg.mem admits it is D5 (log
23). (45_load_store.md R221, 45_load_store.md R222, 20_memory.md R55) -/
def Obligations.ByteLoads : Prop :=
  ∀ (rx ry : BitVec 3) (off : BitVec 16) (s : State) (a : Word), a = s.readGpr (xlat rx) + off.signExtend 32 →
    EncodedAs (.lb ry off rx) 4 0xF0008000 0xF800F800 ∧ EncodedAs (.lbu ry off rx) 4 0xF000A000 0xF800F800 ∧
    (admits s.cfg a 1 .load = true →
      (∃ v, Computes (.lb ry off rx) s (xlat ry) v 4 ∧ v.toInt = (s.readByte a).toInt) ∧
      (∃ v, Computes (.lbu ry off rx) s (xlat ry) v 4 ∧ v.toNat = (s.readByte a).toNat))

/-- LH and LHU load the halfword at an even address and raise Address Error at an odd one. With the address rx plus
the sign-extended offset: where it is even and two bytes are admitted, LH leaves the halfword in ry as a signed
integer and LHU as a natural number, pc moving by 4 and nothing else changing; where it is odd both take Address
Error with that address, admitted or not, and write no register. That an access is made where cfg.mem admits it
is D5 (log 23). (45_load_store.md R223, 45_load_store.md R224, 20_memory.md R55, 60_exceptions.md R301) -/
def Obligations.HalfwordLoads : Prop :=
  ∀ (rx ry : BitVec 3) (off : BitVec 16) (s : State) (a : Word), a = s.readGpr (xlat rx) + off.signExtend 32 →
    EncodedAs (.lh ry off rx) 4 0xF0008800 0xF800F800 ∧ EncodedAs (.lhu ry off rx) 4 0xF000A800 0xF800F800 ∧
    (a.getLsbD 0 = false → admits s.cfg a 2 .load = true →
      (∃ v, Computes (.lh ry off rx) s (xlat ry) v 4 ∧ v.toInt = (s.readHalf a).toInt) ∧
      (∃ v, Computes (.lhu ry off rx) s (xlat ry) v 4 ∧ v.toNat = (s.readHalf a).toNat)) ∧
    (a.getLsbD 0 = true → TakesException (.lh ry off rx) s .addressError (some a) ∧
      TakesException (.lhu ry off rx) s .addressError (some a))

/-- The three LW forms load the word at a multiple of 4 and raise Address Error elsewhere. With the address the base
(rx; GPR 29; pc with bits 1:0 cleared) plus the sign-extended offset: where it is a multiple of 4 and four bytes
are admitted, the destination receives the word there, pc moving by 4 and nothing else changing; elsewhere the
instruction takes Address Error with that address, admitted or not. That an access is made where cfg.mem admits
it is D5 (log 23). (45_load_store.md R225, 45_load_store.md R226, 45_load_store.md R227, 20_memory.md R55,
60_exceptions.md R301) -/
def Obligations.WordLoads : Prop :=
  ∀ (rx ry : BitVec 3) (off : BitVec 16) (s : State) (i : Instr) (value mask base : Word) (rd : Gpr)
      (a : Word),
    (i = .lwRyRx ry off rx ∧ value = 0xF0009800 ∧ mask = 0xF800F800 ∧ base = s.readGpr (xlat rx) ∧ rd = xlat ry) ∨
    (i = .lwRxSp rx off ∧ value = 0xF0009000 ∧ mask = 0xF800F8E0 ∧ base = s.readGpr 29 ∧ rd = xlat rx) ∨
    (i = .lwRxPc rx off ∧ value = 0xF000B000 ∧ mask = 0xF800F8E0 ∧ base = s.pc &&& 0xFFFFFFFC ∧ rd = xlat rx) →
    a = base + off.signExtend 32 →
    EncodedAs i 4 value mask ∧
    (a.toNat % 4 = 0 → admits s.cfg a 4 .load = true → Computes i s rd (s.readWord a) 4) ∧
    (a.toNat % 4 ≠ 0 → TakesException i s .addressError (some a))

/-- SB and SH store the low byte and halfword of ry, SH only at an even address. With the address rx plus the
sign-extended offset: where the access is admitted for a store (and for SH the address is even) SB stores bits
7:0 of ry there, SH bits 15:0, so that they read back; every other byte of memory reads as before, the bytes
stored join the written set, pc moves by 4 and nothing else changes. SH at an odd address takes Address Error
and stores nothing. That an access is made where cfg.mem admits it is D5 (log 23). (45_load_store.md R228,
45_load_store.md R229, 20_memory.md R55, 20_memory.md R63) -/
def Obligations.ByteAndHalfwordStores : Prop :=
  ∀ (rx ry : BitVec 3) (off : BitVec 16) (s : State) (a : Word), a = s.readGpr (xlat rx) + off.signExtend 32 →
    EncodedAs (.sb ry off rx) 4 0xF000C000 0xF800F800 ∧ EncodedAs (.sh ry off rx) 4 0xF000C800 0xF800F800 ∧
    (admits s.cfg a 1 .store = true →
      Stores (.sb ry off rx) s a 1 fun t => t.readByte a = (s.readGpr (xlat ry)).extractLsb' 0 8) ∧
    (a.getLsbD 0 = false → admits s.cfg a 2 .store = true →
      Stores (.sh ry off rx) s a 2 fun t => t.readHalf a = (s.readGpr (xlat ry)).extractLsb' 0 16) ∧
    (a.getLsbD 0 = true → TakesException (.sh ry off rx) s .addressError (some a))

/-- The three SW forms store a register at a multiple of 4 and raise Address Error elsewhere. With the address the
base (rx or GPR 29) plus the sign-extended offset and the data register (ry; rx; GPR 31): where it is a multiple
of 4 and four bytes are admitted for a store, the word reads back, every other byte of memory reads as before,
the four join the written set, pc moves by 4 and nothing else changes; elsewhere the instruction takes Address
Error and stores nothing. That an access is made where cfg.mem admits it is D5 (log 23). (45_load_store.md R230,
45_load_store.md R231, 45_load_store.md R232, 20_memory.md R55, 20_memory.md R63) -/
def Obligations.WordStores : Prop :=
  ∀ (rx ry : BitVec 3) (off : BitVec 16) (s : State) (i : Instr) (value mask base : Word) (rd : Gpr)
      (a : Word),
    (i = .swRyRx ry off rx ∧ value = 0xF000D800 ∧ mask = 0xF800F800 ∧ base = s.readGpr (xlat rx) ∧ rd = xlat ry) ∨
    (i = .swRxSp rx off ∧ value = 0xF000D000 ∧ mask = 0xF800F8E0 ∧ base = s.readGpr 29 ∧ rd = xlat rx) ∨
    (i = .swRaSp off ∧ value = 0xF0006200 ∧ mask = 0xF800FFE0 ∧ base = s.readGpr 29 ∧ rd = 31) →
    a = base + off.signExtend 32 →
    EncodedAs i 4 value mask ∧
    (a.toNat % 4 = 0 → admits s.cfg a 4 .store = true → Stores i s a 4 fun t => t.readWord a = s.readGpr rd) ∧
    (a.toNat % 4 ≠ 0 → TakesException i s .addressError (some a))

/-- An aligned load, store or stack transfer that cfg.mem does not admit faults; transfers before it stand. Each of
the twelve loads and stores, at an address aligned for it where its bytes are not admitted (for a store: not
writable), faults with UnmappedAccess, the address and the kind. SAVE and RESTORE of both forms, with GPR 29 a
multiple of 4, fault so at the first of their transfers, in the order they are made, whose word is not admitted:
extended SAVE tries its arguments upward first, then the others downward. The fault reports the state left, in
which the transfers before it stand, GPR 29 has its old value and all else is as before, but for the pending
jump (D24; log 26). It is the decision D5 of the spec and stands for the exception a platform would raise (log
23). (20_memory.md R57, 60_exceptions.md R302, 46_save_restore.md R257) -/
def Obligations.UnadmittedAccessFaults : Prop :=
  (∀ (rx ry : BitVec 3) (off : BitVec 16) (s : State) (i : Instr) (a : Word) (n : Nat) (kind : AccessKind),
    (a = s.readGpr (xlat rx) + off.signExtend 32 ∧
      ((n = 1 ∧ kind = .load ∧ (i = .lb ry off rx ∨ i = .lbu ry off rx)) ∨
        (n = 2 ∧ kind = .load ∧ (i = .lh ry off rx ∨ i = .lhu ry off rx)) ∨
        (n = 4 ∧ kind = .load ∧ i = .lwRyRx ry off rx) ∨
        (n = 1 ∧ kind = .store ∧ i = .sb ry off rx) ∨ (n = 2 ∧ kind = .store ∧ i = .sh ry off rx) ∨
        (n = 4 ∧ kind = .store ∧ i = .swRyRx ry off rx))) ∨
    (a = s.readGpr 29 + off.signExtend 32 ∧ n = 4 ∧
      ((kind = .load ∧ i = .lwRxSp rx off) ∨ (kind = .store ∧ (i = .swRxSp rx off ∨ i = .swRaSp off)))) ∨
    (a = (s.pc &&& 0xFFFFFFFC) + off.signExtend 32 ∧ n = 4 ∧ kind = .load ∧ i = .lwRxPc rx off) →
    a.toNat % n = 0 → admits s.cfg a n kind = false → exec i s = .fault (.unmappedAccess a kind)) ∧
  ∀ (ra s0 s1 : Bool) (s : State) (sp : Word) (regs : List Gpr) (k : Nat), sp = s.readGpr 29 → sp.toNat % 4 = 0 →
    (∀ (framesize : BitVec 4) (top : Word),
      regs = (if ra then [31] else []) ++ (if s1 then [17] else []) ++ (if s0 then [16] else []) →
      top = sp + (if framesize = 0 then 128 else framesize.setWidth 32 * 8) →
      (FirstUnadmitted s.cfg (frameSlot sp) regs.length k .store →
        SaveStops (.save ra s0 s1 framesize) s (frameSlot sp k) [] (regs.take k)) ∧
      (FirstUnadmitted s.cfg (frameSlot top) regs.length k .load →
        RestoreStops (.restore ra s0 s1 framesize) s (frameSlot top k) top (regs.take k))) ∧
    ∀ (xsregs : BitVec 3) (aregs : BitVec 4) (framesize : BitVec 8) (args astatic : Nat) (top : Word),
      aregsTable aregs = some (args, astatic) →
      regs = (if ra then [31] else []) ++ ([18, 19, 20, 21, 22, 23, 30].take xsregs.toNat).reverse ++
        (if s1 then [17] else []) ++ (if s0 then [16] else []) ++ [7, 6, 5, 4].take astatic →
      top = sp + framesize.setWidth 32 * 8 →
      (FirstUnadmitted s.cfg (argSlot sp) args k .store →
        SaveStops (.saveExt ra s0 s1 xsregs aregs framesize) s (argSlot sp k) ([4, 5, 6, 7].take k) []) ∧
      ((∀ j, j < args → admits s.cfg (argSlot sp j) 4 .store = true) →
        FirstUnadmitted s.cfg (frameSlot sp) regs.length k .store →
        SaveStops (.saveExt ra s0 s1 xsregs aregs framesize) s (frameSlot sp k) ([4, 5, 6, 7].take args) (regs.take k)) ∧
      (FirstUnadmitted s.cfg (frameSlot top) regs.length k .load →
        RestoreStops (.restoreExt ra s0 s1 xsregs aregs framesize) s (frameSlot top k) top (regs.take k))

/-- SAVE stores the selected registers below the stack pointer and lowers it. With the registers selected by ra, s1,
s0 in that order: where there is none or GPR 29 is a multiple of 4, and each word is admitted for a store, SAVE
stores the k-th at GPR 29 - 4(k + 1) and lowers GPR 29 by 8 times framesize, 128 for 0; pc moves by 2, every
other byte of memory reads as before, the bytes of those words and no other join the written set, and nothing
else changes. That an access is made where cfg.mem admits it is D5 (log 23). (46_save_restore.md R255,
46_save_restore.md R250, 20_memory.md R63) -/
def Obligations.SaveStoresTheFrame : Prop :=
  ∀ (ra s0 s1 : Bool) (framesize : BitVec 4) (s : State) (regs : List Gpr),
    regs = (if ra then [31] else []) ++ (if s1 then [17] else []) ++ (if s0 then [16] else []) →
    EncodedAs (.save ra s0 s1 framesize) 2 0x6480 0xFF80 ∧
    ((regs ≠ [] → (s.readGpr 29).toNat % 4 = 0) →
      (∀ k, k < regs.length → admits s.cfg (frameSlot (s.readGpr 29) k) 4 .store = true) →
      SavesFrame (.save ra s0 s1 framesize) s [] regs (if framesize = 0 then 128 else framesize.setWidth 32 * 8) 2)

/-- Extended SAVE stores arguments upward, the other registers downward, and lowers GPR 29. With args and astatic
the counts of the aregs table: where no register is selected or GPR 29 is a multiple of 4, and each word is
admitted for a store, extended SAVE stores GPR 4, 5, ... (args of them) from GPR 29 upward, and below it GPR 31,
the xsregs registers in falling order, 17, 16 and the statics 7, 6, 5, 4, then lowers GPR 29 by 8 times
framesize (0 for 0); pc moves by 4, every other byte of memory reads as before, the bytes of those words and no
other join the written set, nothing else changes. That an access is made where cfg.mem admits it is D5 (log 23).
(46_save_restore.md R256, 46_save_restore.md R251, 46_save_restore.md R252, 20_memory.md R63) -/
def Obligations.ExtendedSaveStoresTheFrame : Prop :=
  ∀ (ra s0 s1 : Bool) (xsregs : BitVec 3) (aregs : BitVec 4) (framesize : BitVec 8) (s : State) (args astatic : Nat)
      (regs : List Gpr),
    aregsTable aregs = some (args, astatic) →
    regs = (if ra then [31] else []) ++ ([18, 19, 20, 21, 22, 23, 30].take xsregs.toNat).reverse ++
        (if s1 then [17] else []) ++ (if s0 then [16] else []) ++ [7, 6, 5, 4].take astatic →
    EncodedAs (.saveExt ra s0 s1 xsregs aregs framesize) 4 0xF0006480 0xF800FF80 ∧
    ((([4, 5, 6, 7] : List Gpr).take args ++ regs ≠ [] → (s.readGpr 29).toNat % 4 = 0) →
      (∀ k, k < args → admits s.cfg (argSlot (s.readGpr 29) k) 4 .store = true) →
      (∀ k, k < regs.length → admits s.cfg (frameSlot (s.readGpr 29) k) 4 .store = true) →
      SavesFrame (.saveExt ra s0 s1 xsregs aregs framesize) s ([4, 5, 6, 7].take args) regs
        (framesize.setWidth 32 * 8) 4)

/-- RESTORE loads the selected registers from below the frame’s top and raises GPR 29. With the registers selected
by ra, s1, s0 in that order and the size 8 times framesize, 128 for 0: where none is selected or GPR 29 is a
multiple of 4, and each word is admitted for a load, RESTORE loads the k-th from GPR 29 + size - 4(k + 1), then
raises GPR 29 by size; pc moves by 2 and nothing else changes. That an access is made where cfg.mem admits it is
D5 (log 23). (46_save_restore.md R253, 46_save_restore.md R250) -/
def Obligations.RestoreLoadsTheFrame : Prop :=
  ∀ (ra s0 s1 : Bool) (framesize : BitVec 4) (s : State) (regs : List Gpr) (size : Word),
    regs = (if ra then [31] else []) ++ (if s1 then [17] else []) ++ (if s0 then [16] else []) →
    size = (if framesize = 0 then 128 else framesize.setWidth 32 * 8) →
    EncodedAs (.restore ra s0 s1 framesize) 2 0x6400 0xFF80 ∧
    ((regs ≠ [] → (s.readGpr 29).toNat % 4 = 0) →
      (∀ k, k < regs.length → admits s.cfg (frameSlot (s.readGpr 29 + size) k) 4 .load = true) →
      RestoresFrame (.restore ra s0 s1 framesize) s regs size 2)

/-- Extended RESTORE loads all but the argument registers and raises GPR 29. With astatic the count of the aregs
table and the size 8 times framesize (0 for 0): where none is selected or GPR 29 is a multiple of 4, and each
word is admitted for a load, extended RESTORE loads GPR 31, the xsregs registers in falling order, 17, 16 and
the statics 7, 6, 5, 4 from words falling below GPR 29 + size, then raises GPR 29 by size; argument registers
are not loaded; pc moves by 4 and nothing else changes. That an access is made where cfg.mem admits it is D5
(log 23). (46_save_restore.md R254, 46_save_restore.md R251, 46_save_restore.md R252) -/
def Obligations.ExtendedRestoreLoadsTheFrame : Prop :=
  ∀ (ra s0 s1 : Bool) (xsregs : BitVec 3) (aregs : BitVec 4) (framesize : BitVec 8) (s : State) (args astatic : Nat)
      (regs : List Gpr) (size : Word),
    aregsTable aregs = some (args, astatic) →
    regs = (if ra then [31] else []) ++ ([18, 19, 20, 21, 22, 23, 30].take xsregs.toNat).reverse ++
        (if s1 then [17] else []) ++ (if s0 then [16] else []) ++ [7, 6, 5, 4].take astatic →
    size = framesize.setWidth 32 * 8 →
    EncodedAs (.restoreExt ra s0 s1 xsregs aregs framesize) 4 0xF0006400 0xF800FF80 ∧
    ((regs ≠ [] → (s.readGpr 29).toNat % 4 = 0) →
      (∀ k, k < regs.length → admits s.cfg (frameSlot (s.readGpr 29 + size) k) 4 .load = true) →
      RestoresFrame (.restoreExt ra s0 s1 xsregs aregs framesize) s regs size 4)

/-- SAVE and RESTORE of any register through a misaligned GPR 29 take Address Error and change nothing. Where GPR 29
is no multiple of 4 and at least one register is transferred, each of the four takes Address Error with the
address of its first transfer (the word below the frame’s top, or GPR 29 itself where extended SAVE stores
arguments first), and no register or memory is written. (46_save_restore.md R250, 46_save_restore.md R257,
60_exceptions.md R301) -/
def Obligations.MisalignedFrameRaises : Prop :=
  ∀ (ra s0 s1 : Bool) (s : State), (s.readGpr 29).toNat % 4 ≠ 0 →
    (ra || s0 || s1 → ∀ (framesize : BitVec 4),
      TakesException (.save ra s0 s1 framesize) s .addressError (some (s.readGpr 29 - 4)) ∧
      TakesException (.restore ra s0 s1 framesize) s .addressError
        (some (s.readGpr 29 + (if framesize = 0 then 128 else framesize.setWidth 32 * 8) - 4))) ∧
    ∀ (xsregs : BitVec 3) (aregs : BitVec 4) (framesize : BitVec 8) (args astatic : Nat),
      aregsTable aregs = some (args, astatic) →
      (args ≠ 0 → TakesException (.saveExt ra s0 s1 xsregs aregs framesize) s .addressError (some (s.readGpr 29))) ∧
      ((ra || s0 || s1) = true ∨ xsregs ≠ 0 ∨ astatic ≠ 0 →
        (args = 0 →
          TakesException (.saveExt ra s0 s1 xsregs aregs framesize) s .addressError (some (s.readGpr 29 - 4))) ∧
        TakesException (.restoreExt ra s0 s1 xsregs aregs framesize) s .addressError
          (some (s.readGpr 29 + framesize.setWidth 32 * 8 - 4)))

/-- The aregs table, row by row, and the fault on its reserved value. The counts of argument and static registers
are those of the table for each of the fifteen values of aregs, 1011 meaning four statics; 1111 is reserved, and
extended SAVE and RESTORE fault on it before any access, in every state. The source calls that UNPREDICTABLE;
testing it first is the spec’s (log 27). (46_save_restore.md R251, 46_save_restore.md R252) -/
def Obligations.ArgumentAndStaticCounts : Prop :=
  ([0, 1, 2, 3, 4, 5, 6, 7, 8, 9, 10, 11, 12, 13, 14, 15].map (aregsTable ·) =
    [some (0, 0), some (0, 1), some (0, 2), some (0, 3), some (1, 0), some (1, 1), some (1, 2), some (1, 3), some (2, 0),
      some (2, 1), some (2, 2), some (0, 4), some (3, 0), some (3, 1), some (4, 0), none]) ∧
  ∀ (ra s0 s1 : Bool) (xsregs : BitVec 3) (framesize : BitVec 8) (s : State),
    exec (.saveExt ra s0 s1 xsregs 0b1111#4 framesize) s = .fault (.unpredictable .reservedAregs) ∧
    exec (.restoreExt ra s0 s1 xsregs 0b1111#4 framesize) s = .fault (.unpredictable .reservedAregs)

/-- A RESTORE with the fields of a SAVE gives back every register the SAVE stored below the stack pointer. If SAVE
(either form) completes with no exception, then in any later state that has the same GPR 29, memory and
parameters, whatever its other registers hold, the RESTORE of the same fields completes, GPR 29 is again what it
was before the SAVE, each saved register below the frame’s top holds the value it had then, and no other
register changes. The argument registers that an extended SAVE stores at and above the old GPR 29 are not given
back. (46_save_restore.md R253, 46_save_restore.md R254, 46_save_restore.md R255, 46_save_restore.md R256) -/
def Obligations.RestoreUndoesSave : Prop :=
  (∀ (ra s0 s1 : Bool) (framesize : BitVec 4) (s t t' : State) (regs : List Gpr),
    regs = (if ra then [31] else []) ++ (if s1 then [17] else []) ++ (if s0 then [16] else []) →
    exec (.save ra s0 s1 framesize) s = .next t → t.exc = none →
    t'.readGpr 29 = t.readGpr 29 → (∀ a, t'.readByte a = t.readByte a) → t'.cfg = t.cfg →
    ∃ u, exec (.restore ra s0 s1 framesize) t' = .next u ∧ u.readGpr 29 = s.readGpr 29 ∧
      (∀ r, r ∈ regs → u.readGpr r = s.readGpr r) ∧ SameGprExcept (29 :: regs) t' u ∧ u.exc = t'.exc) ∧
  (∀ (ra s0 s1 : Bool) (xsregs : BitVec 3) (aregs : BitVec 4) (framesize : BitVec 8) (s t t' : State)
      (args astatic : Nat) (regs : List Gpr),
    aregsTable aregs = some (args, astatic) →
    regs = (if ra then [31] else []) ++ ([18, 19, 20, 21, 22, 23, 30].take xsregs.toNat).reverse ++
        (if s1 then [17] else []) ++ (if s0 then [16] else []) ++ [7, 6, 5, 4].take astatic →
    exec (.saveExt ra s0 s1 xsregs aregs framesize) s = .next t → t.exc = none →
    t'.readGpr 29 = t.readGpr 29 → (∀ a, t'.readByte a = t.readByte a) → t'.cfg = t.cfg →
    ∃ u, exec (.restoreExt ra s0 s1 xsregs aregs framesize) t' = .next u ∧ u.readGpr 29 = s.readGpr 29 ∧
      (∀ r, r ∈ regs → u.readGpr r = s.readGpr r) ∧ SameGprExcept (29 :: regs) t' u ∧ u.exc = t'.exc)

/-- BREAK takes Breakpoint; ASMACRO takes Reserved Instruction unless its macro is implemented. In every state,
whatever their fields hold, BREAK takes Breakpoint, and ASMACRO with a select whose macro is not implemented
takes Reserved Instruction: the outcome record has the pc and whether a jump was pending, which is discarded; pc
stays and no register or memory is written. The record as the outcome is D12 (log 5). An implemented macro is
refused by name: its meaning is not in the source (D10, log 28). (42_system.md R171, 42_system.md R170,
60_exceptions.md R307, 60_exceptions.md R310) -/
def Obligations.BreakAndAsmacroTakeTheirExceptions : Prop :=
  ∀ (code : BitVec 6) (select : BitVec 3) (p0 : BitVec 5) (p1 p2 : BitVec 3) (p3 : BitVec 5) (p4 : BitVec 3) (s : State),
    (EncodedAs (.brk code) 2 0xE805 0xF81F ∧ TakesException (.brk code) s .breakpoint none) ∧
    EncodedAs (.asmacro select p0 p1 p2 p3 p4) 4 0xF000E000 0xF800F800 ∧
    (select ∉ s.cfg.asmacro → TakesException (.asmacro select p0 p1 p2 p3 p4) s .reservedInstruction none) ∧
    (select ∈ s.cfg.asmacro → exec (.asmacro select p0 p1 p2 p3 p4) s = .refused (.macroNotInSource select))

/-- SDBBP takes Debug Breakpoint, or in Debug Mode its own exception with DExcCode 0x9. In every state SDBBP takes
Debug Breakpoint where DM is 0 and leaves DExcCode as it was, and takes Debug Mode Breakpoint where DM is 1 and
sets DExcCode to 0x9; pc, ISAMode, DM, the registers and memory stay and the pending jump is discarded. DEPC
receives a value of which nothing is said (log 7); that DM is not set on entry is D13 (log 8). (42_system.md
R172, 60_exceptions.md R305) -/
def Obligations.SdbbpTakesADebugException : Prop :=
  ∀ (code : BitVec 6) (s : State), EncodedAs (.sdbbp code) 2 0xE801 0xF81F ∧
    ∃ t, exec (.sdbbp code) s = .next t ∧
      t.exc = some ⟨if s.debugDM then .debugModeBreakpoint else .debugBreakpoint, s.pc, s.delay.isSome, none⟩ ∧
      t.debugDExcCode = (if s.debugDM then 0x9#5 else s.debugDExcCode) ∧
      t.delay = none ∧ t.pc = s.pc ∧ t.isaMode = s.isaMode ∧ t.debugDM = s.debugDM ∧ t.watchHi = s.watchHi ∧
      t.watchLo = s.watchLo ∧ t.cfg = s.cfg ∧ SameGprExcept [] s t ∧ SameHiLo s t ∧ SameMem s t

/-- The invariant holds at reset. The state at launch meets State.Inv: pc is even, no jump is pending, no exception
has been taken, GPR 0 is 0, and memory and the written set are in their canonical form. (10_state.md R25,
10_state.md R34, 70_reset_and_hazards.md R340) -/
def Obligations.InvHoldsAtReset : Prop :=
  State.Inv State.reset

/-- Every step keeps the invariant, from every state that meets it. From every state that meets State.Inv, in either
ISA mode and whatever is in memory, a step that gives a next state gives one that meets it: pc and the target of
a pending jump are even, the register a pending jump read still gives its target and mode, after an exception no
jump is pending and pc is the address it reports, GPR 0 holds 0, and memory and the written set keep their
canonical form. (10_state.md R25, 10_state.md R28, 10_state.md R21, 60_exceptions.md R310, 20_memory.md R63) -/
def Obligations.EveryStepKeepsInv : Prop :=
  ∀ s t : State, State.Inv s → step s = .next t → State.Inv t

/-- What the launch state fixes. At launch ISAMode is 1, no jump is pending, DM is 0, GPR 0 reads 0, pc is even, no
byte counts as written and no exception has been taken. These are the spec’s launch values (D13, D14); the
source states no reset value. (10_state.md R34, 70_reset_and_hazards.md R340) -/
def Obligations.LaunchStateValues : Prop :=
  State.reset.isaMode = true ∧ State.reset.delay = none ∧ State.reset.debugDM = false ∧ State.reset.readGpr 0 = 0 ∧
  State.reset.pc.getLsbD 0 = false ∧ State.reset.written = [] ∧ State.reset.exc = none

/-- A step changes no byte that it does not record as written, and forgets none. Over every step that gives a next
state, the set of bytes written since launch only grows, and every byte of memory whose value changed is in it.
So a fetch that passes the test on that set reads the bytes of the launch. The set itself is D20 (log 21).
(20_memory.md R63, 20_memory.md R61) -/
def Obligations.MemoryChangesOnlyWhereRecorded : Prop :=
  ∀ s t : State, step s = .next t →
    (∀ x, x ∈ s.written → x ∈ t.written) ∧ (∀ a : Word, t.readByte a ≠ s.readByte a → a.toNat ∈ t.written)

/-- No step changes the parameters, Debug Mode or the watch registers. Over every step that gives a next state the
parameters (byte order, memory map, macros), DM, WatchHi and WatchLo are unchanged, and DExcCode and DEPC are
unchanged unless the step took a debug exception. That Debug Mode is never entered is D13 (log 8). (10_state.md
R32, 10_state.md R29, 60_exceptions.md R314, 20_memory.md R52) -/
def Obligations.ParametersAndDebugModeNeverChange : Prop :=
  ∀ s t : State, step s = .next t →
    t.cfg = s.cfg ∧ t.debugDM = s.debugDM ∧ t.watchHi = s.watchHi ∧ t.watchLo = s.watchLo ∧
    (t.debugDExcCode ≠ s.debugDExcCode ∨ t.depc ≠ s.depc →
      ∃ e, t.exc = some e ∧ (e.kind = .debugBreakpoint ∨ e.kind = .debugModeBreakpoint))

/-- HI and LO change only under MULT, MULTU, DIV and DIVU. If an instruction completes and HI, LO or the count of
free values differs after it, it is MULT, MULTU, DIV or DIVU. (10_state.md R27) -/
def Obligations.OnlyMultiplyAndDivideWriteHiLo : Prop :=
  ∀ (i : Instr) (s t : State), exec i s = .next t → t.hi ≠ s.hi ∨ t.lo ≠ s.lo ∨ t.draws ≠ s.draws →
    ∃ rx ry, i = .mult rx ry ∨ i = .multu rx ry ∨ i = .div rx ry ∨ i = .divu rx ry

/-- GPR 1, 8 to 15 and 25 to 28 are written only by MOVE r32, rz. If an instruction completes and one of GPR 1, 8 to
15 or 25 to 28 reads differently after it, it is MOVE r32, rz whose r32 is that register. GPR 0 never reads
differently. Which registers the 3-bit fields reach rests on the Xlat table, PRESUMED beyond field 000 (D6, GK3;
log 10), and so does this statement. (10_state.md R24, 10_state.md R22) -/
def Obligations.RegistersReachedOnlyByMove : Prop :=
  ∀ (i : Instr) (s t : State) (r : Gpr), exec i s = .next t → t.readGpr r ≠ s.readGpr r →
    r ≠ 0 ∧ (r ∈ [1, 8, 9, 10, 11, 12, 13, 14, 15, 25, 26, 27, 28] →
      ∃ r32 rz, i = .moveR32Rz r32 rz ∧ r32.toFin = r)

/-- ISAMode changes only through JRC and JALRC at once, and JR, JALR and JALX past a delay slot. If an instruction
completes with another ISAMode, it is JRC or JALRC and the mode is bit 0 of its register. If it leaves a pending
jump that was not there, it is JR or JALR, whose mode is bit 0 of the register; JAL, whose mode is ISAMode; or
JALX, whose mode is the other one. (10_state.md R26) -/
def Obligations.IsaModeWriters : Prop :=
  ∀ (i : Instr) (s t : State), exec i s = .next t →
    (t.isaMode ≠ s.isaMode →
      (i = .jrcRa ∧ t.isaMode = (s.readGpr 31).getLsbD 0) ∨
      ∃ rx, (i = .jrcRx rx ∨ i = .jalrc rx) ∧ t.isaMode = (s.readGpr (xlat rx)).getLsbD 0) ∧
    (∀ d, t.delay = some d → t.delay ≠ s.delay →
      (i = .jrRa ∧ d.mode = (s.readGpr 31).getLsbD 0) ∨
      (∃ rx, (i = .jrRx rx ∨ i = .jalr rx) ∧ d.mode = (s.readGpr (xlat rx)).getLsbD 0) ∨
      (∃ target, i = .jal target ∧ d.mode = s.isaMode) ∨ (∃ index, i = .jalx index ∧ d.mode = !s.isaMode))

/-- Halfwords and words are read most significant byte first in big-endian order, last otherwise. In every state a
halfword and a word read from memory are the natural numbers their bytes make, the byte at the lowest address
the most significant if cfg.bigEndian and the least if not (D2, D3); so after SW of a word at A the byte at A is
its bits 31:24 if cfg.bigEndian and 7:0 if not, and the halfword at A + 2 its low half if cfg.bigEndian and its
high half if not. (20_memory.md R52, 20_memory.md R54) -/
def Obligations.ByteOrderOfMemory : Prop :=
  (∀ (s : State) (a : Word),
    (s.readHalf a).toNat = (if s.cfg.bigEndian then (s.readByte a).toNat * 256 + (s.readByte (a + 1)).toNat
      else (s.readByte (a + 1)).toNat * 256 + (s.readByte a).toNat) ∧
    (s.readWord a).toNat = (if s.cfg.bigEndian
      then (s.readByte a).toNat * 16777216 + (s.readByte (a + 1)).toNat * 65536 + (s.readByte (a + 2)).toNat * 256 +
        (s.readByte (a + 3)).toNat
      else (s.readByte (a + 3)).toNat * 16777216 + (s.readByte (a + 2)).toNat * 65536 + (s.readByte (a + 1)).toNat * 256 +
        (s.readByte a).toNat)) ∧
  (∀ (rx ry : BitVec 3) (off : BitVec 16) (s t : State) (a w : Word), a = s.readGpr (xlat rx) + off.signExtend 32 →
    w = s.readGpr (xlat ry) → a.toNat % 4 = 0 → exec (.swRyRx ry off rx) s = .next t →
    t.readByte a = (if s.cfg.bigEndian then w.extractLsb' 24 8 else w.extractLsb' 0 8) ∧
    t.readHalf (a + 2) = (if s.cfg.bigEndian then w.extractLsb' 0 16 else w.extractLsb' 16 16))

/-- A step that takes an exception writes no register and no memory, and reports its own pc. If a step ends in an
exception, its record names the pc at which the step began and whether a jump was pending then; its kind is one
of Address Error, Breakpoint, Reserved Instruction and the two debug kinds, and it has an address exactly for
Address Error; pc and ISAMode stay, the pending jump is gone, and every register, HI, LO and all of memory are
as before the step: SAVE and RESTORE included, whose Address Error strikes at the first transfer. The record is
D12 (log 5). (60_exceptions.md R311, 60_exceptions.md R310, 60_exceptions.md R307, 60_exceptions.md R302,
46_save_restore.md R257) -/
def Obligations.ExceptionsArePrecise : Prop :=
  ∀ (s t : State) (e : ExcRecord), step s = .next t → t.exc = some e →
    e.epc = s.pc ∧ e.inDelaySlot = s.delay.isSome ∧
    e.kind ∈ [.addressError, .breakpoint, .reservedInstruction, .debugBreakpoint, .debugModeBreakpoint] ∧
    (e.addr ≠ none ↔ e.kind = .addressError) ∧
    t.pc = s.pc ∧ t.isaMode = s.isaMode ∧ t.delay = none ∧
    SameGprExcept [] s t ∧ SameHiLo s t ∧ SameMem s t
end

