-- ==== Sys2Proof/Laws/State.lean ====
section
/-! SUPPORT. One lemma per field per update of State, so that no later proof unfolds an update. -/

namespace Sys2Proof.Machine

variable (s : State)

/-! ## State.writeGpr -/

@[simp] theorem State.writeGpr_hi (r : Gpr) (v : Word) : (s.writeGpr r v).hi = s.hi := by unfold State.writeGpr; split <;> rfl
@[simp] theorem State.writeGpr_lo (r : Gpr) (v : Word) : (s.writeGpr r v).lo = s.lo := by unfold State.writeGpr; split <;> rfl
@[simp] theorem State.writeGpr_pc (r : Gpr) (v : Word) : (s.writeGpr r v).pc = s.pc := by unfold State.writeGpr; split <;> rfl
@[simp] theorem State.writeGpr_isaMode (r : Gpr) (v : Word) : (s.writeGpr r v).isaMode = s.isaMode := by unfold State.writeGpr; split <;> rfl
@[simp] theorem State.writeGpr_delay (r : Gpr) (v : Word) : (s.writeGpr r v).delay = s.delay := by unfold State.writeGpr; split <;> rfl
@[simp] theorem State.writeGpr_debugDM (r : Gpr) (v : Word) : (s.writeGpr r v).debugDM = s.debugDM := by unfold State.writeGpr; split <;> rfl
@[simp] theorem State.writeGpr_debugDExcCode (r : Gpr) (v : Word) : (s.writeGpr r v).debugDExcCode = s.debugDExcCode := by unfold State.writeGpr; split <;> rfl
@[simp] theorem State.writeGpr_depc (r : Gpr) (v : Word) : (s.writeGpr r v).depc = s.depc := by unfold State.writeGpr; split <;> rfl
@[simp] theorem State.writeGpr_watchHi (r : Gpr) (v : Word) : (s.writeGpr r v).watchHi = s.watchHi := by unfold State.writeGpr; split <;> rfl
@[simp] theorem State.writeGpr_watchLo (r : Gpr) (v : Word) : (s.writeGpr r v).watchLo = s.watchLo := by unfold State.writeGpr; split <;> rfl
@[simp] theorem State.writeGpr_mem (r : Gpr) (v : Word) : (s.writeGpr r v).mem = s.mem := by unfold State.writeGpr; split <;> rfl
@[simp] theorem State.writeGpr_written (r : Gpr) (v : Word) : (s.writeGpr r v).written = s.written := by unfold State.writeGpr; split <;> rfl
@[simp] theorem State.writeGpr_exc (r : Gpr) (v : Word) : (s.writeGpr r v).exc = s.exc := by unfold State.writeGpr; split <;> rfl
@[simp] theorem State.writeGpr_draws (r : Gpr) (v : Word) : (s.writeGpr r v).draws = s.draws := by unfold State.writeGpr; split <;> rfl
@[simp] theorem State.writeGpr_cfg (r : Gpr) (v : Word) : (s.writeGpr r v).cfg = s.cfg := by unfold State.writeGpr; split <;> rfl
@[simp] theorem State.writeGpr_readByte (r : Gpr) (v : Word) (x : Word) : (s.writeGpr r v).readByte x = s.readByte x := by unfold State.writeGpr; split <;> rfl
@[simp] theorem State.writeGpr_readHalf (r : Gpr) (v : Word) (x : Word) : (s.writeGpr r v).readHalf x = s.readHalf x := by unfold State.writeGpr; split <;> rfl
@[simp] theorem State.writeGpr_readWord (r : Gpr) (v : Word) (x : Word) : (s.writeGpr r v).readWord x = s.readWord x := by unfold State.writeGpr; split <;> rfl

/-! ## State.writeHiLo -/

@[simp] theorem State.writeHiLo_gpr (h l : Word) : (s.writeHiLo h l).gpr = s.gpr := rfl
@[simp] theorem State.writeHiLo_hi (h l : Word) : (s.writeHiLo h l).hi = h := rfl
@[simp] theorem State.writeHiLo_lo (h l : Word) : (s.writeHiLo h l).lo = l := rfl
@[simp] theorem State.writeHiLo_pc (h l : Word) : (s.writeHiLo h l).pc = s.pc := rfl
@[simp] theorem State.writeHiLo_isaMode (h l : Word) : (s.writeHiLo h l).isaMode = s.isaMode := rfl
@[simp] theorem State.writeHiLo_delay (h l : Word) : (s.writeHiLo h l).delay = s.delay := rfl
@[simp] theorem State.writeHiLo_debugDM (h l : Word) : (s.writeHiLo h l).debugDM = s.debugDM := rfl
@[simp] theorem State.writeHiLo_debugDExcCode (h l : Word) : (s.writeHiLo h l).debugDExcCode = s.debugDExcCode := rfl
@[simp] theorem State.writeHiLo_depc (h l : Word) : (s.writeHiLo h l).depc = s.depc := rfl
@[simp] theorem State.writeHiLo_watchHi (h l : Word) : (s.writeHiLo h l).watchHi = s.watchHi := rfl
@[simp] theorem State.writeHiLo_watchLo (h l : Word) : (s.writeHiLo h l).watchLo = s.watchLo := rfl
@[simp] theorem State.writeHiLo_mem (h l : Word) : (s.writeHiLo h l).mem = s.mem := rfl
@[simp] theorem State.writeHiLo_written (h l : Word) : (s.writeHiLo h l).written = s.written := rfl
@[simp] theorem State.writeHiLo_exc (h l : Word) : (s.writeHiLo h l).exc = s.exc := rfl
@[simp] theorem State.writeHiLo_draws (h l : Word) : (s.writeHiLo h l).draws = s.draws := rfl
@[simp] theorem State.writeHiLo_cfg (h l : Word) : (s.writeHiLo h l).cfg = s.cfg := rfl
@[simp] theorem State.writeHiLo_readGpr (h l : Word) (q : Gpr) : (s.writeHiLo h l).readGpr q = s.readGpr q := rfl
@[simp] theorem State.writeHiLo_readByte (h l : Word) (x : Word) : (s.writeHiLo h l).readByte x = s.readByte x := rfl
@[simp] theorem State.writeHiLo_readHalf (h l : Word) (x : Word) : (s.writeHiLo h l).readHalf x = s.readHalf x := rfl
@[simp] theorem State.writeHiLo_readWord (h l : Word) (x : Word) : (s.writeHiLo h l).readWord x = s.readWord x := rfl

/-! ## State.drawHiLo -/

@[simp] theorem State.drawHiLo_gpr : (s.drawHiLo).gpr = s.gpr := rfl
@[simp] theorem State.drawHiLo_hi : (s.drawHiLo).hi = Config.draw32 (s.draws + 1) := rfl
@[simp] theorem State.drawHiLo_lo : (s.drawHiLo).lo = Config.draw32 s.draws := rfl
@[simp] theorem State.drawHiLo_pc : (s.drawHiLo).pc = s.pc := rfl
@[simp] theorem State.drawHiLo_isaMode : (s.drawHiLo).isaMode = s.isaMode := rfl
@[simp] theorem State.drawHiLo_delay : (s.drawHiLo).delay = s.delay := rfl
@[simp] theorem State.drawHiLo_debugDM : (s.drawHiLo).debugDM = s.debugDM := rfl
@[simp] theorem State.drawHiLo_debugDExcCode : (s.drawHiLo).debugDExcCode = s.debugDExcCode := rfl
@[simp] theorem State.drawHiLo_depc : (s.drawHiLo).depc = s.depc := rfl
@[simp] theorem State.drawHiLo_watchHi : (s.drawHiLo).watchHi = s.watchHi := rfl
@[simp] theorem State.drawHiLo_watchLo : (s.drawHiLo).watchLo = s.watchLo := rfl
@[simp] theorem State.drawHiLo_mem : (s.drawHiLo).mem = s.mem := rfl
@[simp] theorem State.drawHiLo_written : (s.drawHiLo).written = s.written := rfl
@[simp] theorem State.drawHiLo_exc : (s.drawHiLo).exc = s.exc := rfl
@[simp] theorem State.drawHiLo_draws : (s.drawHiLo).draws = s.draws + 2 := rfl
@[simp] theorem State.drawHiLo_cfg : (s.drawHiLo).cfg = s.cfg := rfl
@[simp] theorem State.drawHiLo_readGpr (q : Gpr) : (s.drawHiLo).readGpr q = s.readGpr q := rfl
@[simp] theorem State.drawHiLo_readByte (x : Word) : (s.drawHiLo).readByte x = s.readByte x := rfl
@[simp] theorem State.drawHiLo_readHalf (x : Word) : (s.drawHiLo).readHalf x = s.readHalf x := rfl
@[simp] theorem State.drawHiLo_readWord (x : Word) : (s.drawHiLo).readWord x = s.readWord x := rfl

/-! ## State.advance -/

@[simp] theorem State.advance_gpr (n : Word) : (s.advance n).gpr = s.gpr := rfl
@[simp] theorem State.advance_hi (n : Word) : (s.advance n).hi = s.hi := rfl
@[simp] theorem State.advance_lo (n : Word) : (s.advance n).lo = s.lo := rfl
@[simp] theorem State.advance_pc (n : Word) : (s.advance n).pc = s.pc + n := rfl
@[simp] theorem State.advance_isaMode (n : Word) : (s.advance n).isaMode = s.isaMode := rfl
@[simp] theorem State.advance_delay (n : Word) : (s.advance n).delay = s.delay := rfl
@[simp] theorem State.advance_debugDM (n : Word) : (s.advance n).debugDM = s.debugDM := rfl
@[simp] theorem State.advance_debugDExcCode (n : Word) : (s.advance n).debugDExcCode = s.debugDExcCode := rfl
@[simp] theorem State.advance_depc (n : Word) : (s.advance n).depc = s.depc := rfl
@[simp] theorem State.advance_watchHi (n : Word) : (s.advance n).watchHi = s.watchHi := rfl
@[simp] theorem State.advance_watchLo (n : Word) : (s.advance n).watchLo = s.watchLo := rfl
@[simp] theorem State.advance_mem (n : Word) : (s.advance n).mem = s.mem := rfl
@[simp] theorem State.advance_written (n : Word) : (s.advance n).written = s.written := rfl
@[simp] theorem State.advance_exc (n : Word) : (s.advance n).exc = s.exc := rfl
@[simp] theorem State.advance_draws (n : Word) : (s.advance n).draws = s.draws := rfl
@[simp] theorem State.advance_cfg (n : Word) : (s.advance n).cfg = s.cfg := rfl
@[simp] theorem State.advance_readGpr (n : Word) (q : Gpr) : (s.advance n).readGpr q = s.readGpr q := rfl
@[simp] theorem State.advance_readByte (n : Word) (x : Word) : (s.advance n).readByte x = s.readByte x := rfl
@[simp] theorem State.advance_readHalf (n : Word) (x : Word) : (s.advance n).readHalf x = s.readHalf x := rfl
@[simp] theorem State.advance_readWord (n : Word) (x : Word) : (s.advance n).readWord x = s.readWord x := rfl

/-! ## State.jumpNow -/

@[simp] theorem State.jumpNow_gpr (t : Word) (m : Bool) : (s.jumpNow t m).gpr = s.gpr := rfl
@[simp] theorem State.jumpNow_hi (t : Word) (m : Bool) : (s.jumpNow t m).hi = s.hi := rfl
@[simp] theorem State.jumpNow_lo (t : Word) (m : Bool) : (s.jumpNow t m).lo = s.lo := rfl
@[simp] theorem State.jumpNow_pc (t : Word) (m : Bool) : (s.jumpNow t m).pc = t := rfl
@[simp] theorem State.jumpNow_isaMode (t : Word) (m : Bool) : (s.jumpNow t m).isaMode = m := rfl
@[simp] theorem State.jumpNow_delay (t : Word) (m : Bool) : (s.jumpNow t m).delay = s.delay := rfl
@[simp] theorem State.jumpNow_debugDM (t : Word) (m : Bool) : (s.jumpNow t m).debugDM = s.debugDM := rfl
@[simp] theorem State.jumpNow_debugDExcCode (t : Word) (m : Bool) : (s.jumpNow t m).debugDExcCode = s.debugDExcCode := rfl
@[simp] theorem State.jumpNow_depc (t : Word) (m : Bool) : (s.jumpNow t m).depc = s.depc := rfl
@[simp] theorem State.jumpNow_watchHi (t : Word) (m : Bool) : (s.jumpNow t m).watchHi = s.watchHi := rfl
@[simp] theorem State.jumpNow_watchLo (t : Word) (m : Bool) : (s.jumpNow t m).watchLo = s.watchLo := rfl
@[simp] theorem State.jumpNow_mem (t : Word) (m : Bool) : (s.jumpNow t m).mem = s.mem := rfl
@[simp] theorem State.jumpNow_written (t : Word) (m : Bool) : (s.jumpNow t m).written = s.written := rfl
@[simp] theorem State.jumpNow_exc (t : Word) (m : Bool) : (s.jumpNow t m).exc = s.exc := rfl
@[simp] theorem State.jumpNow_draws (t : Word) (m : Bool) : (s.jumpNow t m).draws = s.draws := rfl
@[simp] theorem State.jumpNow_cfg (t : Word) (m : Bool) : (s.jumpNow t m).cfg = s.cfg := rfl
@[simp] theorem State.jumpNow_readGpr (t : Word) (m : Bool) (q : Gpr) : (s.jumpNow t m).readGpr q = s.readGpr q := rfl
@[simp] theorem State.jumpNow_readByte (t : Word) (m : Bool) (x : Word) : (s.jumpNow t m).readByte x = s.readByte x := rfl
@[simp] theorem State.jumpNow_readHalf (t : Word) (m : Bool) (x : Word) : (s.jumpNow t m).readHalf x = s.readHalf x := rfl
@[simp] theorem State.jumpNow_readWord (t : Word) (m : Bool) (x : Word) : (s.jumpNow t m).readWord x = s.readWord x := rfl

/-! ## State.jumpAfterSlot -/

@[simp] theorem State.jumpAfterSlot_gpr (n t : Word) (m : Bool) (src : Option Gpr) : (s.jumpAfterSlot n t m src).gpr = s.gpr := rfl
@[simp] theorem State.jumpAfterSlot_hi (n t : Word) (m : Bool) (src : Option Gpr) : (s.jumpAfterSlot n t m src).hi = s.hi := rfl
@[simp] theorem State.jumpAfterSlot_lo (n t : Word) (m : Bool) (src : Option Gpr) : (s.jumpAfterSlot n t m src).lo = s.lo := rfl
@[simp] theorem State.jumpAfterSlot_pc (n t : Word) (m : Bool) (src : Option Gpr) : (s.jumpAfterSlot n t m src).pc = s.pc + n := rfl
@[simp] theorem State.jumpAfterSlot_isaMode (n t : Word) (m : Bool) (src : Option Gpr) : (s.jumpAfterSlot n t m src).isaMode = s.isaMode := rfl
@[simp] theorem State.jumpAfterSlot_delay (n t : Word) (m : Bool) (src : Option Gpr) : (s.jumpAfterSlot n t m src).delay = some ⟨t, m, src⟩ := rfl
@[simp] theorem State.jumpAfterSlot_debugDM (n t : Word) (m : Bool) (src : Option Gpr) : (s.jumpAfterSlot n t m src).debugDM = s.debugDM := rfl
@[simp] theorem State.jumpAfterSlot_debugDExcCode (n t : Word) (m : Bool) (src : Option Gpr) : (s.jumpAfterSlot n t m src).debugDExcCode = s.debugDExcCode := rfl
@[simp] theorem State.jumpAfterSlot_depc (n t : Word) (m : Bool) (src : Option Gpr) : (s.jumpAfterSlot n t m src).depc = s.depc := rfl
@[simp] theorem State.jumpAfterSlot_watchHi (n t : Word) (m : Bool) (src : Option Gpr) : (s.jumpAfterSlot n t m src).watchHi = s.watchHi := rfl
@[simp] theorem State.jumpAfterSlot_watchLo (n t : Word) (m : Bool) (src : Option Gpr) : (s.jumpAfterSlot n t m src).watchLo = s.watchLo := rfl
@[simp] theorem State.jumpAfterSlot_mem (n t : Word) (m : Bool) (src : Option Gpr) : (s.jumpAfterSlot n t m src).mem = s.mem := rfl
@[simp] theorem State.jumpAfterSlot_written (n t : Word) (m : Bool) (src : Option Gpr) : (s.jumpAfterSlot n t m src).written = s.written := rfl
@[simp] theorem State.jumpAfterSlot_exc (n t : Word) (m : Bool) (src : Option Gpr) : (s.jumpAfterSlot n t m src).exc = s.exc := rfl
@[simp] theorem State.jumpAfterSlot_draws (n t : Word) (m : Bool) (src : Option Gpr) : (s.jumpAfterSlot n t m src).draws = s.draws := rfl
@[simp] theorem State.jumpAfterSlot_cfg (n t : Word) (m : Bool) (src : Option Gpr) : (s.jumpAfterSlot n t m src).cfg = s.cfg := rfl
@[simp] theorem State.jumpAfterSlot_readGpr (n t : Word) (m : Bool) (src : Option Gpr) (q : Gpr) : (s.jumpAfterSlot n t m src).readGpr q = s.readGpr q := rfl
@[simp] theorem State.jumpAfterSlot_readByte (n t : Word) (m : Bool) (src : Option Gpr) (x : Word) : (s.jumpAfterSlot n t m src).readByte x = s.readByte x := rfl
@[simp] theorem State.jumpAfterSlot_readHalf (n t : Word) (m : Bool) (src : Option Gpr) (x : Word) : (s.jumpAfterSlot n t m src).readHalf x = s.readHalf x := rfl
@[simp] theorem State.jumpAfterSlot_readWord (n t : Word) (m : Bool) (src : Option Gpr) (x : Word) : (s.jumpAfterSlot n t m src).readWord x = s.readWord x := rfl

/-! ## State.raise -/

@[simp] theorem State.raise_gpr (k : ExcKind) (a : Option Word) : (s.raise k a).gpr = s.gpr := rfl
@[simp] theorem State.raise_hi (k : ExcKind) (a : Option Word) : (s.raise k a).hi = s.hi := rfl
@[simp] theorem State.raise_lo (k : ExcKind) (a : Option Word) : (s.raise k a).lo = s.lo := rfl
@[simp] theorem State.raise_pc (k : ExcKind) (a : Option Word) : (s.raise k a).pc = s.pc := rfl
@[simp] theorem State.raise_isaMode (k : ExcKind) (a : Option Word) : (s.raise k a).isaMode = s.isaMode := rfl
@[simp] theorem State.raise_delay (k : ExcKind) (a : Option Word) : (s.raise k a).delay = none := rfl
@[simp] theorem State.raise_debugDM (k : ExcKind) (a : Option Word) : (s.raise k a).debugDM = s.debugDM := rfl
@[simp] theorem State.raise_debugDExcCode (k : ExcKind) (a : Option Word) : (s.raise k a).debugDExcCode = s.debugDExcCode := rfl
@[simp] theorem State.raise_depc (k : ExcKind) (a : Option Word) : (s.raise k a).depc = s.depc := rfl
@[simp] theorem State.raise_watchHi (k : ExcKind) (a : Option Word) : (s.raise k a).watchHi = s.watchHi := rfl
@[simp] theorem State.raise_watchLo (k : ExcKind) (a : Option Word) : (s.raise k a).watchLo = s.watchLo := rfl
@[simp] theorem State.raise_mem (k : ExcKind) (a : Option Word) : (s.raise k a).mem = s.mem := rfl
@[simp] theorem State.raise_written (k : ExcKind) (a : Option Word) : (s.raise k a).written = s.written := rfl
@[simp] theorem State.raise_exc (k : ExcKind) (a : Option Word) : (s.raise k a).exc = some ⟨k, s.pc, s.delay.isSome, a⟩ := rfl
@[simp] theorem State.raise_draws (k : ExcKind) (a : Option Word) : (s.raise k a).draws = s.draws := rfl
@[simp] theorem State.raise_cfg (k : ExcKind) (a : Option Word) : (s.raise k a).cfg = s.cfg := rfl
@[simp] theorem State.raise_readGpr (k : ExcKind) (a : Option Word) (q : Gpr) : (s.raise k a).readGpr q = s.readGpr q := rfl
@[simp] theorem State.raise_readByte (k : ExcKind) (a : Option Word) (x : Word) : (s.raise k a).readByte x = s.readByte x := rfl
@[simp] theorem State.raise_readHalf (k : ExcKind) (a : Option Word) (x : Word) : (s.raise k a).readHalf x = s.readHalf x := rfl
@[simp] theorem State.raise_readWord (k : ExcKind) (a : Option Word) (x : Word) : (s.raise k a).readWord x = s.readWord x := rfl

/-! ## State.raiseDebug -/

@[simp] theorem State.raiseDebug_gpr (k : ExcKind) : (s.raiseDebug k).gpr = s.gpr := rfl
@[simp] theorem State.raiseDebug_hi (k : ExcKind) : (s.raiseDebug k).hi = s.hi := rfl
@[simp] theorem State.raiseDebug_lo (k : ExcKind) : (s.raiseDebug k).lo = s.lo := rfl
@[simp] theorem State.raiseDebug_pc (k : ExcKind) : (s.raiseDebug k).pc = s.pc := rfl
@[simp] theorem State.raiseDebug_isaMode (k : ExcKind) : (s.raiseDebug k).isaMode = s.isaMode := rfl
@[simp] theorem State.raiseDebug_delay (k : ExcKind) : (s.raiseDebug k).delay = none := rfl
@[simp] theorem State.raiseDebug_debugDM (k : ExcKind) : (s.raiseDebug k).debugDM = s.debugDM := rfl
@[simp] theorem State.raiseDebug_debugDExcCode (k : ExcKind) : (s.raiseDebug k).debugDExcCode = s.debugDExcCode := rfl
@[simp] theorem State.raiseDebug_depc (k : ExcKind) : (s.raiseDebug k).depc = Config.depcValue s.pc s.isaMode s.delay.isSome := rfl
@[simp] theorem State.raiseDebug_watchHi (k : ExcKind) : (s.raiseDebug k).watchHi = s.watchHi := rfl
@[simp] theorem State.raiseDebug_watchLo (k : ExcKind) : (s.raiseDebug k).watchLo = s.watchLo := rfl
@[simp] theorem State.raiseDebug_mem (k : ExcKind) : (s.raiseDebug k).mem = s.mem := rfl
@[simp] theorem State.raiseDebug_written (k : ExcKind) : (s.raiseDebug k).written = s.written := rfl
@[simp] theorem State.raiseDebug_exc (k : ExcKind) : (s.raiseDebug k).exc = some ⟨k, s.pc, s.delay.isSome, none⟩ := rfl
@[simp] theorem State.raiseDebug_draws (k : ExcKind) : (s.raiseDebug k).draws = s.draws := rfl
@[simp] theorem State.raiseDebug_cfg (k : ExcKind) : (s.raiseDebug k).cfg = s.cfg := rfl
@[simp] theorem State.raiseDebug_readGpr (k : ExcKind) (q : Gpr) : (s.raiseDebug k).readGpr q = s.readGpr q := rfl
@[simp] theorem State.raiseDebug_readByte (k : ExcKind) (x : Word) : (s.raiseDebug k).readByte x = s.readByte x := rfl
@[simp] theorem State.raiseDebug_readHalf (k : ExcKind) (x : Word) : (s.raiseDebug k).readHalf x = s.readHalf x := rfl
@[simp] theorem State.raiseDebug_readWord (k : ExcKind) (x : Word) : (s.raiseDebug k).readWord x = s.readWord x := rfl

/-! ## State.writeByte -/

@[simp] theorem State.writeByte_gpr (a : Word) (b : Byte) : (s.writeByte a b).gpr = s.gpr := rfl
@[simp] theorem State.writeByte_hi (a : Word) (b : Byte) : (s.writeByte a b).hi = s.hi := rfl
@[simp] theorem State.writeByte_lo (a : Word) (b : Byte) : (s.writeByte a b).lo = s.lo := rfl
@[simp] theorem State.writeByte_pc (a : Word) (b : Byte) : (s.writeByte a b).pc = s.pc := rfl
@[simp] theorem State.writeByte_isaMode (a : Word) (b : Byte) : (s.writeByte a b).isaMode = s.isaMode := rfl
@[simp] theorem State.writeByte_delay (a : Word) (b : Byte) : (s.writeByte a b).delay = s.delay := rfl
@[simp] theorem State.writeByte_debugDM (a : Word) (b : Byte) : (s.writeByte a b).debugDM = s.debugDM := rfl
@[simp] theorem State.writeByte_debugDExcCode (a : Word) (b : Byte) : (s.writeByte a b).debugDExcCode = s.debugDExcCode := rfl
@[simp] theorem State.writeByte_depc (a : Word) (b : Byte) : (s.writeByte a b).depc = s.depc := rfl
@[simp] theorem State.writeByte_watchHi (a : Word) (b : Byte) : (s.writeByte a b).watchHi = s.watchHi := rfl
@[simp] theorem State.writeByte_watchLo (a : Word) (b : Byte) : (s.writeByte a b).watchLo = s.watchLo := rfl
@[simp] theorem State.writeByte_mem (a : Word) (b : Byte) : (s.writeByte a b).mem = Memory.write s.mem a.toNat b := rfl
@[simp] theorem State.writeByte_written (a : Word) (b : Byte) : (s.writeByte a b).written = WriteSet.insert s.written a.toNat := rfl
@[simp] theorem State.writeByte_exc (a : Word) (b : Byte) : (s.writeByte a b).exc = s.exc := rfl
@[simp] theorem State.writeByte_draws (a : Word) (b : Byte) : (s.writeByte a b).draws = s.draws := rfl
@[simp] theorem State.writeByte_cfg (a : Word) (b : Byte) : (s.writeByte a b).cfg = s.cfg := rfl
@[simp] theorem State.writeByte_readGpr (a : Word) (b : Byte) (q : Gpr) : (s.writeByte a b).readGpr q = s.readGpr q := rfl

/-! ## State.writeBytes -/

@[simp] theorem State.writeBytes_gpr (a : Word) (bs : List Byte) : (s.writeBytes a bs).gpr = s.gpr := by
  induction bs generalizing s a with
  | nil => rfl
  | cons b bs ih => simp [State.writeBytes, ih]
@[simp] theorem State.writeBytes_hi (a : Word) (bs : List Byte) : (s.writeBytes a bs).hi = s.hi := by
  induction bs generalizing s a with
  | nil => rfl
  | cons b bs ih => simp [State.writeBytes, ih]
@[simp] theorem State.writeBytes_lo (a : Word) (bs : List Byte) : (s.writeBytes a bs).lo = s.lo := by
  induction bs generalizing s a with
  | nil => rfl
  | cons b bs ih => simp [State.writeBytes, ih]
@[simp] theorem State.writeBytes_pc (a : Word) (bs : List Byte) : (s.writeBytes a bs).pc = s.pc := by
  induction bs generalizing s a with
  | nil => rfl
  | cons b bs ih => simp [State.writeBytes, ih]
@[simp] theorem State.writeBytes_isaMode (a : Word) (bs : List Byte) : (s.writeBytes a bs).isaMode = s.isaMode := by
  induction bs generalizing s a with
  | nil => rfl
  | cons b bs ih => simp [State.writeBytes, ih]
@[simp] theorem State.writeBytes_delay (a : Word) (bs : List Byte) : (s.writeBytes a bs).delay = s.delay := by
  induction bs generalizing s a with
  | nil => rfl
  | cons b bs ih => simp [State.writeBytes, ih]
@[simp] theorem State.writeBytes_debugDM (a : Word) (bs : List Byte) : (s.writeBytes a bs).debugDM = s.debugDM := by
  induction bs generalizing s a with
  | nil => rfl
  | cons b bs ih => simp [State.writeBytes, ih]
@[simp] theorem State.writeBytes_debugDExcCode (a : Word) (bs : List Byte) : (s.writeBytes a bs).debugDExcCode = s.debugDExcCode := by
  induction bs generalizing s a with
  | nil => rfl
  | cons b bs ih => simp [State.writeBytes, ih]
@[simp] theorem State.writeBytes_depc (a : Word) (bs : List Byte) : (s.writeBytes a bs).depc = s.depc := by
  induction bs generalizing s a with
  | nil => rfl
  | cons b bs ih => simp [State.writeBytes, ih]
@[simp] theorem State.writeBytes_watchHi (a : Word) (bs : List Byte) : (s.writeBytes a bs).watchHi = s.watchHi := by
  induction bs generalizing s a with
  | nil => rfl
  | cons b bs ih => simp [State.writeBytes, ih]
@[simp] theorem State.writeBytes_watchLo (a : Word) (bs : List Byte) : (s.writeBytes a bs).watchLo = s.watchLo := by
  induction bs generalizing s a with
  | nil => rfl
  | cons b bs ih => simp [State.writeBytes, ih]
@[simp] theorem State.writeBytes_exc (a : Word) (bs : List Byte) : (s.writeBytes a bs).exc = s.exc := by
  induction bs generalizing s a with
  | nil => rfl
  | cons b bs ih => simp [State.writeBytes, ih]
@[simp] theorem State.writeBytes_draws (a : Word) (bs : List Byte) : (s.writeBytes a bs).draws = s.draws := by
  induction bs generalizing s a with
  | nil => rfl
  | cons b bs ih => simp [State.writeBytes, ih]
@[simp] theorem State.writeBytes_cfg (a : Word) (bs : List Byte) : (s.writeBytes a bs).cfg = s.cfg := by
  induction bs generalizing s a with
  | nil => rfl
  | cons b bs ih => simp [State.writeBytes, ih]
@[simp] theorem State.writeBytes_readGpr (a : Word) (bs : List Byte) (q : Gpr) :
    (s.writeBytes a bs).readGpr q = s.readGpr q := by simp [State.readGpr]

/-! ## Registers -/

/-- What a register reads after a write (10_state R21). -/
theorem State.readGpr_writeGpr (r q : Gpr) (v : Word) :
    (s.writeGpr r v).readGpr q = if q = r ∧ r ≠ 0 then v else s.readGpr q := by
  unfold State.writeGpr State.readGpr
  by_cases hr : r = 0
  · simp [hr]
  · by_cases hq : q = r
    · subst hq; simp [hr]
    · have h' : (r : Nat) ≠ (q : Nat) := fun h => hq (Fin.ext h.symm)
      simp [hr, hq, h']

@[simp] theorem State.readGpr_writeGpr_self (r : Gpr) (v : Word) (h : r ≠ 0) : (s.writeGpr r v).readGpr r = v := by
  simp [State.readGpr_writeGpr, h]

@[simp] theorem State.readGpr_writeGpr_ne (r q : Gpr) (v : Word) (h : q ≠ r) :
    (s.writeGpr r v).readGpr q = s.readGpr q := by
  simp [State.readGpr_writeGpr, h]

@[simp] theorem State.readGpr_zero : s.readGpr 0 = 0 := rfl

@[simp] theorem State.writeGpr_zero (v : Word) : s.writeGpr 0 v = s := rfl

/-- The place that stands for GPR 0 is never written. -/
@[simp] theorem State.writeGpr_gpr_zero (r : Gpr) (v : Word) : (s.writeGpr r v).gpr[0] = s.gpr[0] := by
  unfold State.writeGpr
  by_cases hr : r = 0
  · simp [hr]
  · have h' : (r : Nat) ≠ 0 := fun h => hr (Fin.ext h)
    simp [hr, h']

/-- No 3-bit field names GPR 0, GPR 24, GPR 29 or GPR 31 (10_state R22, R24). -/
theorem xlat_mem (f : BitVec 3) : xlat f ∈ ([2, 3, 4, 5, 6, 7, 16, 17] : List Gpr) := by revert f; decide
@[simp] theorem xlat_ne_zero (f : BitVec 3) : xlat f ≠ 0 := by revert f; decide
@[simp] theorem xlat_ne_ra (f : BitVec 3) : xlat f ≠ regRa := by revert f; decide
@[simp] theorem xlat_ne_sp (f : BitVec 3) : xlat f ≠ regSp := by revert f; decide
@[simp] theorem xlat_ne_t (f : BitVec 3) : xlat f ≠ regT := by revert f; decide
@[simp] theorem regRa_ne_zero : regRa ≠ 0 := by decide
@[simp] theorem regSp_ne_zero : regSp ≠ 0 := by decide
@[simp] theorem regT_ne_zero : regT ≠ 0 := by decide

end Sys2Proof.Machine
end

