-- ==== Sys2Proof/Laws/Memory.lean ====
section
/-! SUPPORT. The sparse memory and the written set: read after write, and the canonical forms kept. -/

namespace Sys2Proof.Machine

/-! ## Reading what was written -/

theorem Memory.read_erase (m : Memory) (a x : Nat) :
    Memory.read (Memory.erase m a) x = if x = a then Memory.unlisted else Memory.read m x := by
  induction m with
  | nil => simp [Memory.erase, Memory.read]
  | cons c rest ih =>
    obtain ⟨k, v⟩ := c
    simp only [Memory.erase] at ih ⊢
    by_cases hk : k = a
    · subst hk
      simp only [List.filter_cons, bne_self_eq_false, Bool.false_eq_true, if_false, ih, Memory.read]
      by_cases hx : x = k
      · simp [hx]
      · simp [hx, Ne.symm hx]
    · have hb : (k != a) = true := by simpa using hk
      simp only [List.filter_cons, hb, if_true, Memory.read, ih]
      by_cases hx : k = x
      · subst hx; simp [hk]
      · simp [hx]

theorem Memory.read_insert (m : Memory) (a x : Nat) (b : Byte) (h : ∀ c ∈ m, c.1 ≠ a) :
    Memory.read (Memory.insert m a b) x = if x = a then b else Memory.read m x := by
  induction m with
  | nil => simp [Memory.insert, Memory.read, eq_comm]
  | cons c rest ih =>
    obtain ⟨k, v⟩ := c
    have hk : k ≠ a := h (k, v) (by simp)
    have ih' := ih fun c hc => h c (by simp [hc])
    simp only [Memory.insert]
    split
    · simp [Memory.read, eq_comm]
    · simp only [Memory.read, ih']
      by_cases hx : k = x
      · subst hx; simp [hk]
      · simp [hx]

theorem Memory.erase_ne (m : Memory) (a : Nat) : ∀ c ∈ Memory.erase m a, c.1 ≠ a := by
  intro c hc
  simpa using (List.mem_filter.mp hc).2

/-- A read after a write: the byte written at its address, every other address as before. -/
@[simp] theorem Memory.read_write (m : Memory) (a x : Nat) (b : Byte) :
    Memory.read (Memory.write m a b) x = if x = a then b else Memory.read m x := by
  unfold Memory.write
  split
  · next hb => simp [Memory.read_erase, hb]
  · rw [Memory.read_insert _ _ _ _ (Memory.erase_ne m a), Memory.read_erase]
    split <;> rfl

/-! ## The canonical forms -/

/-- The canonical form, one entry at a time. -/
theorem Memory.wf_cons (k : Nat) (v : Byte) (rest : Memory) :
    Memory.wf ((k, v) :: rest) = true ↔
      (∀ c ∈ rest, k < c.1) ∧ k < 4294967296 ∧ v ≠ Memory.unlisted ∧ Memory.wf rest = true := by
  simp [Memory.wf, Memory.above, and_assoc]

theorem Memory.wf_erase (m : Memory) (a : Nat) (h : Memory.wf m = true) : Memory.wf (Memory.erase m a) = true := by
  induction m with
  | nil => rfl
  | cons c rest ih =>
    obtain ⟨k, v⟩ := c
    obtain ⟨h1, h2, h3, h4⟩ := (Memory.wf_cons k v rest).mp h
    by_cases hk : k = a
    · have : Memory.erase ((k, v) :: rest) a = Memory.erase rest a := by simp [Memory.erase, hk]
      rw [this]; exact ih h4
    · have : Memory.erase ((k, v) :: rest) a = (k, v) :: Memory.erase rest a := by simp [Memory.erase, hk]
      rw [this, Memory.wf_cons]
      exact ⟨fun c hc => h1 c (List.mem_filter.mp hc).1, h2, h3, ih h4⟩

theorem Memory.mem_insert (m : Memory) (a : Nat) (b : Byte) (c : Host.Cell) :
    c ∈ Memory.insert m a b ↔ c = (a, b) ∨ c ∈ m := by
  induction m with
  | nil => simp [Memory.insert]
  | cons d rest ih =>
    obtain ⟨k, v⟩ := d
    simp only [Memory.insert]
    split
    · simp
    · simp only [List.mem_cons, ih]; tauto

theorem Memory.wf_insert (m : Memory) (a : Nat) (b : Byte) (h : Memory.wf m = true) (ha : a < 4294967296)
    (hb : b ≠ Memory.unlisted) (hne : ∀ c ∈ m, c.1 ≠ a) : Memory.wf (Memory.insert m a b) = true := by
  induction m with
  | nil => simp [Memory.insert, Memory.wf, Memory.above, ha, hb]
  | cons c rest ih =>
    obtain ⟨k, v⟩ := c
    obtain ⟨h1, h2, h3, h4⟩ := (Memory.wf_cons k v rest).mp h
    simp only [Memory.insert]
    split
    · next hlt =>
      rw [Memory.wf_cons]
      refine ⟨fun c hc => ?_, ha, hb, h⟩
      rcases List.mem_cons.mp hc with rfl | hc
      · exact hlt
      · exact lt_trans hlt (h1 c hc)
    · next hlt =>
      have hka : k ≠ a := hne (k, v) (by simp)
      rw [Memory.wf_cons]
      refine ⟨fun c hc => ?_, h2, h3, ih h4 fun c hc => hne c (by simp [hc])⟩
      rcases (Memory.mem_insert rest a b c).mp hc with rfl | hc
      · exact lt_of_le_of_ne (not_lt.mp hlt) hka
      · exact h1 c hc

/-- A write keeps the canonical form. -/
theorem Memory.wf_write (m : Memory) (a : Nat) (b : Byte) (h : Memory.wf m = true) (ha : a < 4294967296) :
    Memory.wf (Memory.write m a b) = true := by
  unfold Memory.write
  split
  · exact Memory.wf_erase m a h
  · next hb => exact Memory.wf_insert _ a b (Memory.wf_erase m a h) ha hb (Memory.erase_ne m a)

/-- The members of the written set after one more store. -/
@[simp] theorem WriteSet.mem_insert (ws : List Nat) (a x : Nat) : x ∈ WriteSet.insert ws a ↔ x = a ∨ x ∈ ws := by
  induction ws with
  | nil => simp [WriteSet.insert]
  | cons k rest ih =>
    simp only [WriteSet.insert]
    split
    · simp
    · split
      · next h => subst h; simp
      · simp only [List.mem_cons, ih]; tauto

theorem WriteSet.wf_cons (k : Nat) (rest : List Nat) :
    WriteSet.wf (k :: rest) = true ↔ (∀ x ∈ rest, k < x) ∧ k < 4294967296 ∧ WriteSet.wf rest = true := by
  simp [WriteSet.wf, and_assoc]

/-- A store keeps the canonical form of the written set. -/
theorem WriteSet.wf_insert (ws : List Nat) (a : Nat) (h : WriteSet.wf ws = true) (ha : a < 4294967296) :
    WriteSet.wf (WriteSet.insert ws a) = true := by
  induction ws with
  | nil => simp [WriteSet.insert, WriteSet.wf, ha]
  | cons k rest ih =>
    obtain ⟨h1, h2, h3⟩ := (WriteSet.wf_cons k rest).mp h
    simp only [WriteSet.insert]
    split
    · next hlt =>
      rw [WriteSet.wf_cons]
      refine ⟨fun x hx => ?_, ha, h⟩
      rcases List.mem_cons.mp hx with rfl | hx
      · exact hlt
      · exact lt_trans hlt (h1 x hx)
    · next hlt =>
      split
      · exact h
      · next hne =>
        rw [WriteSet.wf_cons]
        refine ⟨fun x hx => ?_, h2, ih h3⟩
        rcases (WriteSet.mem_insert rest a x).mp hx with rfl | hx
        · exact lt_of_le_of_ne (not_lt.mp hlt) (Ne.symm hne)
        · exact h1 x hx

theorem WriteSet.wf_filter (ws : List Nat) (p : Nat → Bool) (h : WriteSet.wf ws = true) :
    WriteSet.wf (ws.filter p) = true := by
  induction ws with
  | nil => rfl
  | cons k rest ih =>
    obtain ⟨h1, h2, h3⟩ := (WriteSet.wf_cons k rest).mp h
    simp only [List.filter_cons]
    split
    · rw [WriteSet.wf_cons]
      exact ⟨fun x hx => h1 x (List.mem_filter.mp hx).1, h2, ih h3⟩
    · exact ih h3

/-! ## Bytes of the state -/

variable (s : State)

/-- A byte after a one-byte store. -/
@[simp] theorem State.readByte_writeByte (a x : Word) (b : Byte) :
    (s.writeByte a b).readByte x = if x = a then b else s.readByte x := by
  simp only [State.readByte, State.writeByte_mem, Memory.read_write, BitVec.toNat_inj]

/-- The written set after storing a list of bytes. -/
theorem State.mem_writeBytes_written (a : Word) (bs : List Byte) (x : Nat) :
    x ∈ (s.writeBytes a bs).written ↔ x ∈ s.written ∨ ∃ k, k < bs.length ∧ x = (byteAddr a k).toNat := by
  induction bs generalizing s a with
  | nil => simp [State.writeBytes]
  | cons b bs ih =>
    simp only [State.writeBytes, ih, State.writeByte_written, WriteSet.mem_insert, List.length_cons]
    constructor
    · rintro ((h | h) | ⟨k, hk, h⟩)
      · exact .inr ⟨0, by omega, by simp [byteAddr, h]⟩
      · exact .inl h
      · exact .inr ⟨k + 1, by omega, by rw [h]; congr 1; simp only [byteAddr]; bv_omega⟩
    · rintro (h | ⟨k, hk, h⟩)
      · exact .inl (.inr h)
      · cases k with
        | zero => exact .inl (.inl (by simpa [byteAddr] using h))
        | succ k => exact .inr ⟨k, by omega, by rw [h]; congr 1; simp only [byteAddr]; bv_omega⟩

/-- A byte outside the stored ones reads as before. -/
theorem State.readByte_writeBytes_of_ne (a : Word) (bs : List Byte) (x : Word)
    (h : ∀ k, k < bs.length → x ≠ byteAddr a k) : (s.writeBytes a bs).readByte x = s.readByte x := by
  induction bs generalizing s a with
  | nil => rfl
  | cons b bs ih =>
    have h0 : x ≠ a := by simpa [byteAddr] using h 0 (by simp)
    simp only [State.writeBytes]
    rw [ih, State.readByte_writeByte, if_neg h0]
    intro k hk hx
    exact h (k + 1) (by simpa using hk) (by rw [hx]; simp only [byteAddr]; bv_omega)

/-- The stored bytes are read back. -/
theorem State.readByte_writeBytes (a : Word) (bs : List Byte) (k : Nat) (hk : k < bs.length)
    (hlen : bs.length ≤ 4294967296) : (s.writeBytes a bs).readByte (byteAddr a k) = bs[k] := by
  induction bs generalizing s a k with
  | nil => simp at hk
  | cons b bs ih =>
    simp only [State.writeBytes]
    simp only [List.length_cons] at hlen hk
    cases k with
    | zero =>
      rw [State.readByte_writeBytes_of_ne, State.readByte_writeByte]
      · simp [byteAddr]
      · intro j hj hx; simp only [byteAddr] at hx; bv_omega
    | succ k =>
      have : byteAddr a (k + 1) = byteAddr (a + 1) k := by simp only [byteAddr]; bv_omega
      rw [this, ih _ _ k (by omega) (by omega)]
      simp

/-- Storing bytes changes exactly those bytes. -/
theorem State.writeBytes_storesOnly (a : Word) (bs : List Byte) : StoresOnly a bs.length s (s.writeBytes a bs) :=
  ⟨fun x h => s.readByte_writeBytes_of_ne a bs x h, s.mem_writeBytes_written a bs⟩

/-- Storing bytes keeps both canonical forms. -/
theorem State.writeBytes_wf (a : Word) (bs : List Byte) (hm : Memory.wf s.mem = true) (hw : WriteSet.wf s.written = true) :
    Memory.wf (s.writeBytes a bs).mem = true ∧ WriteSet.wf (s.writeBytes a bs).written = true := by
  induction bs generalizing s a with
  | nil => exact ⟨hm, hw⟩
  | cons b bs ih =>
    exact ih _ _ (Memory.wf_write _ _ _ hm a.isLt) (WriteSet.wf_insert _ _ hw a.isLt)

end Sys2Proof.Machine
end

