-- ==== Sys2Proof/Laws/Access.lean ====
section
/-! SUPPORT. What each shared operation can do, once: memory accesses, the transfers of SAVE and RESTORE, taking an
exception, the end of a step. -/

namespace Sys2Proof.Machine

variable (s : State)

/-! ## Byte order -/

/-- Two words with the same four bytes are equal. -/
theorem bytes_of_word (w : Word) :
    w.extractLsb' 24 8 ++ w.extractLsb' 16 8 ++ w.extractLsb' 8 8 ++ w.extractLsb' 0 8 = w := by
  ext i hi
  simp only [BitVec.getElem_append, BitVec.getElem_extractLsb']
  split
  · simp [BitVec.getLsbD_eq_getElem hi]
  · split
    · rw [← BitVec.getLsbD_eq_getElem]; congr 1; omega
    · split
      · rw [← BitVec.getLsbD_eq_getElem]; congr 1; omega
      · rw [← BitVec.getLsbD_eq_getElem]; congr 1; omega

/-- Two halfwords with the same two bytes are equal. -/
theorem bytes_of_half (h : Half) : h.extractLsb' 8 8 ++ h.extractLsb' 0 8 = h := by
  ext i hi
  simp only [BitVec.getElem_append, BitVec.getElem_extractLsb']
  split
  · simp [BitVec.getLsbD_eq_getElem hi]
  · rw [← BitVec.getLsbD_eq_getElem]; congr 1; omega

@[simp] theorem halfToBytes_length (be : Bool) (h : Half) : (halfToBytes be h).length = 2 := by
  unfold halfToBytes; split <;> rfl
@[simp] theorem wordToBytes_length (be : Bool) (w : Word) : (wordToBytes be w).length = 4 := by
  unfold wordToBytes; split <;> rfl

theorem bytesToWord_wordToBytes (be : Bool) (w : Word) :
    bytesToWord be (wordToBytes be w)[0] (wordToBytes be w)[1] (wordToBytes be w)[2] (wordToBytes be w)[3] = w := by
  cases be <;> simp [bytesToWord, wordToBytes, bytes_of_word]

theorem bytesToHalf_halfToBytes (be : Bool) (h : Half) :
    bytesToHalf be (halfToBytes be h)[0] (halfToBytes be h)[1] = h := by
  cases be <;> simp [bytesToHalf, halfToBytes, bytes_of_half]

/-! ## Reading back a store (20_memory R52, R61) -/

/-- A word read, by the addresses of its bytes. -/
theorem State.readWord_eq (a : Word) : s.readWord a = bytesToWord s.cfg.bigEndian
    (s.readByte (byteAddr a 0)) (s.readByte (byteAddr a 1)) (s.readByte (byteAddr a 2)) (s.readByte (byteAddr a 3)) := by
  simp [State.readWord, byteAddr]

/-- A halfword read, by the addresses of its bytes. -/
theorem State.readHalf_eq (a : Word) :
    s.readHalf a = bytesToHalf s.cfg.bigEndian (s.readByte (byteAddr a 0)) (s.readByte (byteAddr a 1)) := by
  simp [State.readHalf, byteAddr]

theorem State.readWord_writeBytes (a w : Word) :
    (s.writeBytes a (wordToBytes s.cfg.bigEndian w)).readWord a = w := by
  have h : ∀ k (hk : k < 4), (s.writeBytes a (wordToBytes s.cfg.bigEndian w)).readByte (byteAddr a k)
      = (wordToBytes s.cfg.bigEndian w)[k]'(by simpa using hk) :=
    fun k hk => s.readByte_writeBytes a _ k (by simpa using hk) (by simp)
  rw [State.readWord_eq, h 0 (by omega), h 1 (by omega), h 2 (by omega), h 3 (by omega), State.writeBytes_cfg]
  exact bytesToWord_wordToBytes _ w

theorem State.readHalf_writeBytes (a : Word) (h : Half) :
    (s.writeBytes a (halfToBytes s.cfg.bigEndian h)).readHalf a = h := by
  have hb : ∀ k (hk : k < 2), (s.writeBytes a (halfToBytes s.cfg.bigEndian h)).readByte (byteAddr a k)
      = (halfToBytes s.cfg.bigEndian h)[k]'(by simpa using hk) :=
    fun k hk => s.readByte_writeBytes a _ k (by simpa using hk) (by simp)
  rw [State.readHalf_eq, hb 0 (by omega), hb 1 (by omega), State.writeBytes_cfg]
  exact bytesToHalf_halfToBytes _ h

/-- Two states in the same byte order whose four bytes agree read the same word. -/
theorem State.readWord_congr {s t : State} (a : Word) (hc : t.cfg = s.cfg)
    (h : ∀ k, k < 4 → t.readByte (byteAddr a k) = s.readByte (byteAddr a k)) : t.readWord a = s.readWord a := by
  rw [State.readWord_eq, State.readWord_eq, hc, h 0 (by omega), h 1 (by omega), h 2 (by omega), h 3 (by omega)]

theorem State.writeBytes_readGpr_fun (a : Word) (bs : List Byte) : (s.writeBytes a bs).readGpr = s.readGpr :=
  funext fun q => s.writeBytes_readGpr a bs q

/-! ## Access checks (20_memory R55, R57) -/

theorem State.checkAccess_eq (al : Bool) (a : Word) (n : Nat) (k : AccessKind) :
    s.checkAccess al a n k =
      if al then (if admits s.cfg a n k then .ok () else .error (.fault (.unmappedAccess a k)))
      else .error (.raise .addressError (some a)) := rfl

theorem State.loadByte_eq (a : Word) : s.loadByte a =
    if admits s.cfg a 1 .load then .ok (s.readByte a) else .error (.fault (.unmappedAccess a .load)) := by
  unfold State.loadByte; rw [State.checkAccess_eq]; split <;> simp_all
  split at * <;> simp_all

theorem State.loadHalf_eq (a : Word) : s.loadHalf a =
    if halfAligned a then (if admits s.cfg a 2 .load then .ok (s.readHalf a) else .error (.fault (.unmappedAccess a .load)))
    else .error (.raise .addressError (some a)) := by
  unfold State.loadHalf; rw [State.checkAccess_eq]; by_cases h : halfAligned a <;>
    by_cases h2 : admits s.cfg a 2 .load <;> simp [h, h2]

theorem State.loadWord_eq (a : Word) : s.loadWord a =
    if wordAligned a then (if admits s.cfg a 4 .load then .ok (s.readWord a) else .error (.fault (.unmappedAccess a .load)))
    else .error (.raise .addressError (some a)) := by
  unfold State.loadWord; rw [State.checkAccess_eq]; by_cases h : wordAligned a <;>
    by_cases h2 : admits s.cfg a 4 .load <;> simp [h, h2]

theorem State.storeByte_eq (a : Word) (b : Byte) : s.storeByte a b =
    if admits s.cfg a 1 .store then .ok (s.writeBytes a [b]) else .error (.fault (.unmappedAccess a .store)) := by
  unfold State.storeByte; rw [State.checkAccess_eq]
  by_cases h2 : admits s.cfg a 1 .store <;> simp [h2]

theorem State.storeHalf_eq (a : Word) (h : Half) : s.storeHalf a h =
    if halfAligned a then
      (if admits s.cfg a 2 .store then .ok (s.writeBytes a (halfToBytes s.cfg.bigEndian h))
        else .error (.fault (.unmappedAccess a .store)))
    else .error (.raise .addressError (some a)) := by
  unfold State.storeHalf; rw [State.checkAccess_eq]; by_cases h : halfAligned a <;>
    by_cases h2 : admits s.cfg a 2 .store <;> simp [h, h2]

theorem State.storeWord_eq (a w : Word) : s.storeWord a w =
    if wordAligned a then
      (if admits s.cfg a 4 .store then .ok (s.writeBytes a (wordToBytes s.cfg.bigEndian w))
        else .error (.fault (.unmappedAccess a .store)))
    else .error (.raise .addressError (some a)) := by
  unfold State.storeWord; rw [State.checkAccess_eq]; by_cases h : wordAligned a <;>
    by_cases h2 : admits s.cfg a 4 .store <;> simp [h, h2]

/-- A multiple of 4 added to an address keeps its alignment (46_save_restore R250). -/
theorem wordAligned_add (a : Word) (k : Nat) : wordAligned (a + BitVec.ofNat 32 (4 * k)) = wordAligned a := by
  have h : ∀ x : Word, (wordAligned x = true) ↔ x.toNat % 4 = 0 := by
    intro x
    simp only [wordAligned, beq_iff_eq, ← BitVec.toNat_inj, BitVec.extractLsb'_toNat, Nat.shiftRight_zero]
    simp
  rw [Bool.eq_iff_iff, h, h, BitVec.toNat_add, BitVec.toNat_ofNat]
  omega

@[simp] theorem wordAligned_sub_four (a : Word) : wordAligned (a - 4) = wordAligned a := by
  have := wordAligned_add (a - 4) 1
  rw [← this]; congr 1; simp

@[simp] theorem wordAligned_add_four (a : Word) : wordAligned (a + 4) = wordAligned a := wordAligned_add a 1

/-! ## The transfers of SAVE and RESTORE (46_save_restore R250 to R257) -/

theorem frameSlot_zero (top : Word) : frameSlot top 0 = top - 4 := rfl
theorem frameSlot_succ (top : Word) (k : Nat) : frameSlot top (k + 1) = frameSlot (top - 4) k := by
  simp only [frameSlot]; bv_omega
theorem argSlot_zero (b : Word) : argSlot b 0 = b := by simp [argSlot]
theorem argSlot_succ (b : Word) (k : Nat) : argSlot b (k + 1) = argSlot (b + 4) k := by
  simp only [argSlot]; bv_omega

/-- The first slot not admitted, counted from one slot earlier. -/
theorem FirstUnadmitted.succ {cfg : Cfg} {slot slot' : Nat → Word} {n k : Nat} {kind : AccessKind}
    (hs : ∀ j, slot (j + 1) = slot' j) (h0 : admits cfg (slot 0) 4 kind = true)
    (h : FirstUnadmitted cfg slot' n k kind) : FirstUnadmitted cfg slot (n + 1) (k + 1) kind := by
  obtain ⟨hk, hb, hu⟩ := h
  refine ⟨by omega, fun j hj => ?_, by rw [hs]; exact hu⟩
  cases j with
  | zero => exact h0
  | succ j => rw [hs]; exact hb j (by omega)

/-- At most one slot is the first not admitted. -/
theorem FirstUnadmitted.unique {cfg : Cfg} {slot : Nat → Word} {n m k l : Nat} {kind : AccessKind}
    (h : FirstUnadmitted cfg slot n k kind) (h' : FirstUnadmitted cfg slot m l kind) : k = l := by
  by_contra hne
  rcases Nat.lt_or_gt_of_ne hne with hlt | hlt
  · have := h'.2.1 k hlt; rw [h.2.2] at this; cases this
  · have := h.2.1 l hlt; rw [h'.2.2] at this; cases this

/-- What RESTORE's loads leave: memory and all but the general registers as before, the registers not named as
before, and each named one (none twice, not GPR 0) the word at its slot. -/
structure LoadedFrame (s : State) (top : Word) (rs : List Gpr) (t : State) : Prop where
  onlyGpr : t = { s with gpr := t.gpr }
  zero : t.gpr[0] = s.gpr[0]
  others : ∀ r, r ∉ rs → t.readGpr r = s.readGpr r
  loaded : rs.Nodup → (0 : Gpr) ∉ rs → ∀ k (h : k < rs.length), t.readGpr rs[k] = s.readWord (frameSlot top k)

theorem LoadedFrame.nil (top : Word) : LoadedFrame s top [] s :=
  ⟨rfl, rfl, fun _ _ => rfl, fun _ _ k h => absurd h (by simp)⟩

/-- One register loaded from the first slot, the rest after it. -/
theorem LoadedFrame.cons (top : Word) (r : Gpr) (rs : List Gpr) (t : State)
    (h : LoadedFrame (s.writeGpr r (s.readWord (top - 4))) (top - 4) rs t) : LoadedFrame s top (r :: rs) t := by
  refine ⟨?_, by rw [h.zero, State.writeGpr_gpr_zero], ?_, ?_⟩
  · rw [h.onlyGpr]; unfold State.writeGpr; split <;> rfl
  · intro q hq
    rw [h.others q fun h => hq (by simp [h]), State.readGpr_writeGpr_ne]
    rintro rfl; exact hq (by simp)
  · intro hnd h0 k hk
    obtain ⟨hr, hnd'⟩ := List.nodup_cons.mp hnd
    cases k with
    | zero =>
      have hr0 : r ≠ 0 := fun h => h0 (by simp [h])
      simp only [List.getElem_cons_zero, frameSlot_zero]
      rw [h.others r hr, State.readGpr_writeGpr_self _ _ _ hr0]
    | succ k =>
      simp only [List.getElem_cons_succ, frameSlot_succ]
      rw [h.loaded hnd' (fun h => h0 (by simp [h])) k (by simpa using hk), State.writeGpr_readWord]

theorem State.loadFrame_spec (top : Word) (rs : List Gpr) :
    (∃ t, s.loadFrame top rs = .ok t ∧ LoadedFrame s top rs t ∧
        ∀ k, k < rs.length → wordAligned top = true ∧ admits s.cfg (frameSlot top k) 4 .load = true) ∨
    (∃ tr t k, s.loadFrame top rs = .error (tr, t) ∧ k < rs.length ∧ LoadedFrame s top (rs.take k) t ∧
        ((wordAligned top = false ∧ k = 0 ∧ t = s ∧ tr = .raise .addressError (some (frameSlot top 0))) ∨
          (wordAligned top = true ∧ FirstUnadmitted s.cfg (frameSlot top) rs.length k .load ∧
            tr = .fault (.unmappedAccess (frameSlot top k) .load)))) := by
  induction rs generalizing s top with
  | nil => exact .inl ⟨s, rfl, LoadedFrame.nil s top, fun k h => absurd h (by simp)⟩
  | cons r rs ih =>
    have e : s.loadFrame top (r :: rs) =
        if wordAligned top then
          (if admits s.cfg (top - 4) 4 .load then (s.writeGpr r (s.readWord (top - 4))).loadFrame (top - 4) rs
            else .error (.fault (.unmappedAccess (top - 4) .load), s))
        else .error (.raise .addressError (some (top - 4)), s) := by
      simp only [State.loadFrame, State.loadWord_eq, wordAligned_sub_four]
      split_ifs <;> rfl
    by_cases hal : wordAligned top = true
    · by_cases had : admits s.cfg (top - 4) 4 .load = true
      · rw [e, if_pos hal, if_pos had]
        rcases ih (s.writeGpr r (s.readWord (top - 4))) (top - 4) with ⟨t, ht, hl, hk⟩ | ⟨tr, t, k, ht, hlt, hl, hwhy⟩
        · refine .inl ⟨t, ht, LoadedFrame.cons s top r rs t hl, ?_⟩
          intro k hklt
          cases k with
          | zero => exact ⟨hal, had⟩
          | succ k =>
            have := hk k (by simpa using hklt)
            rw [frameSlot_succ]; exact ⟨hal, by simpa using this.2⟩
        · refine .inr ⟨tr, t, k + 1, ht, by simpa using hlt, LoadedFrame.cons s top r _ t hl, .inr ?_⟩
          rcases hwhy with ⟨h, _⟩ | ⟨_, had', htr⟩
          · rw [wordAligned_sub_four] at h; simp [hal] at h
          · rw [State.writeGpr_cfg] at had'
            exact ⟨hal, had'.succ (frameSlot_succ top) had, by rw [frameSlot_succ]; exact htr⟩
      · have had' : admits s.cfg (top - 4) 4 .load = false := by simpa using had
        rw [e, if_pos hal, if_neg had]
        exact .inr ⟨_, _, 0, rfl, by simp, LoadedFrame.nil s top,
          .inr ⟨hal, ⟨by simp, fun j hj => by omega, had'⟩, rfl⟩⟩
    · have hal' : wordAligned top = false := by simpa using hal
      rw [e, if_neg hal]
      exact .inr ⟨_, _, 0, rfl, by simp, LoadedFrame.nil s top, .inl ⟨hal', rfl, rfl, rfl⟩⟩

/-- What a run of word stores leaves: everything but memory and the written set as before, every byte outside the
slots as before, and (where the slots lie apart) each slot holding its word. -/
structure StoredWords (s : State) (slot : Nat → Word) (ws : List Word) (t : State) : Prop where
  onlyMem : t = { s with mem := t.mem, written := t.written }
  others : ∀ a, (∀ k, k < ws.length → ∀ j, j < 4 → a ≠ byteAddr (slot k) j) → t.readByte a = s.readByte a
  stored : (∀ i j, i < j → j < ws.length → ∀ x y, x < 4 → y < 4 → byteAddr (slot i) x ≠ byteAddr (slot j) y) →
    ∀ k (h : k < ws.length), t.readWord (slot k) = ws[k]
  written : ∀ x, x ∈ t.written ↔
    x ∈ s.written ∨ ∃ k, k < ws.length ∧ ∃ j, j < 4 ∧ x = (byteAddr (slot k) j).toNat
  wf : Memory.wf s.mem = true → WriteSet.wf s.written = true →
    Memory.wf t.mem = true ∧ WriteSet.wf t.written = true

theorem StoredWords.nil (slot : Nat → Word) : StoredWords s slot [] s :=
  ⟨rfl, fun _ _ => rfl, fun _ k h => absurd h (by simp), fun x => by simp, fun h h' => ⟨h, h'⟩⟩

/-- One word stored at the first slot, the rest after it. -/
theorem StoredWords.cons (slot : Nat → Word) (w : Word) (ws : List Word) (t : State)
    (h : StoredWords (s.writeBytes (slot 0) (wordToBytes s.cfg.bigEndian w)) (fun k => slot (k + 1)) ws t) :
    StoredWords s slot (w :: ws) t := by
  refine ⟨?_, ?_, ?_, ?_, ?_⟩
  · rw [h.onlyMem]
    have : ∀ (a : Word) (bs : List Byte) (m : Memory) (w : List Nat),
        ({ s.writeBytes a bs with mem := m, written := w } : State) = { s with mem := m, written := w } := by
      intro a bs m w
      rw [State.mk.injEq]; simp
    exact this _ _ _ _
  · intro a ha
    rw [h.others a fun k hk j hj => ha (k + 1) (by simpa using hk) j hj]
    exact s.readByte_writeBytes_of_ne _ _ _ fun j hj => ha 0 (by simp) j (by simpa using hj)
  · intro hap k hk
    cases k with
    | zero =>
      have := s.readWord_writeBytes (slot 0) w
      rw [List.getElem_cons_zero, ← this]
      have hc : t.cfg = (s.writeBytes (slot 0) (wordToBytes s.cfg.bigEndian w)).cfg := by rw [h.onlyMem]
      refine State.readWord_congr _ hc fun x hx => ?_
      refine h.others _ fun j hj y hy => ?_
      exact hap 0 (j + 1) (by omega) (by simpa using hj) x y hx hy
    | succ k =>
      exact h.stored (fun i j hij hj => hap (i + 1) (j + 1) (by omega) (by simpa using hj)) k (by simpa using hk)
  · intro x
    rw [h.written, State.mem_writeBytes_written]
    simp only [wordToBytes_length, List.length_cons]
    constructor
    · rintro ((hx | ⟨j, hj, hx⟩) | ⟨k, hk, hx⟩)
      · exact .inl hx
      · exact .inr ⟨0, by omega, j, hj, hx⟩
      · exact .inr ⟨k + 1, by omega, hx⟩
    · rintro (hx | ⟨k, hk, j, hj, hx⟩)
      · exact .inl (.inl hx)
      · cases k with
        | zero => exact .inl (.inr ⟨j, hj, hx⟩)
        | succ k => exact .inr ⟨k, by omega, j, hj, hx⟩
  · intro hm hw
    obtain ⟨h1, h2⟩ := s.writeBytes_wf (slot 0) (wordToBytes s.cfg.bigEndian w) hm hw
    exact h.wf h1 h2

theorem State.storeFrame_spec (top : Word) (rs : List Gpr) :
    (∃ t, s.storeFrame top rs = .ok t ∧ StoredWords s (frameSlot top) (rs.map s.readGpr) t ∧
        ∀ k, k < rs.length → wordAligned top = true ∧ admits s.cfg (frameSlot top k) 4 .store = true) ∨
    (∃ tr t k, s.storeFrame top rs = .error (tr, t) ∧ k < rs.length ∧
        StoredWords s (frameSlot top) ((rs.map s.readGpr).take k) t ∧
        ((wordAligned top = false ∧ k = 0 ∧ t = s ∧ tr = .raise .addressError (some (frameSlot top 0))) ∨
          (wordAligned top = true ∧ FirstUnadmitted s.cfg (frameSlot top) rs.length k .store ∧
            tr = .fault (.unmappedAccess (frameSlot top k) .store)))) := by
  induction rs generalizing s top with
  | nil => exact .inl ⟨s, rfl, StoredWords.nil s _, fun k h => absurd h (by simp)⟩
  | cons r rs ih =>
    have hslot : (fun k => frameSlot top (k + 1)) = frameSlot (top - 4) := funext fun k => frameSlot_succ top k
    have hcons : ∀ ws t,
        StoredWords (s.writeBytes (top - 4) (wordToBytes s.cfg.bigEndian (s.readGpr r))) (frameSlot (top - 4)) ws t →
        StoredWords s (frameSlot top) (s.readGpr r :: ws) t := fun ws t h =>
      StoredWords.cons s (frameSlot top) (s.readGpr r) ws t (by rw [hslot]; exact h)
    have e : s.storeFrame top (r :: rs) =
        if wordAligned top then
          (if admits s.cfg (top - 4) 4 .store then
              (s.writeBytes (top - 4) (wordToBytes s.cfg.bigEndian (s.readGpr r))).storeFrame (top - 4) rs
            else .error (.fault (.unmappedAccess (top - 4) .store), s))
        else .error (.raise .addressError (some (top - 4)), s) := by
      simp only [State.storeFrame, State.storeWord_eq, wordAligned_sub_four]
      split_ifs <;> rfl
    by_cases hal : wordAligned top = true
    · by_cases had : admits s.cfg (top - 4) 4 .store = true
      · rw [e, if_pos hal, if_pos had]
        rcases ih (s.writeBytes (top - 4) (wordToBytes s.cfg.bigEndian (s.readGpr r))) (top - 4) with
          ⟨t, ht, hs, hk⟩ | ⟨tr, t, k, ht, hlt, hs, hwhy⟩
        · refine .inl ⟨t, ht, hcons _ t (by rwa [State.writeBytes_readGpr_fun] at hs), ?_⟩
          intro k hklt
          cases k with
          | zero => exact ⟨hal, had⟩
          | succ k =>
            have := hk k (by simpa using hklt)
            rw [frameSlot_succ]; exact ⟨hal, by simpa using this.2⟩
        · refine .inr ⟨tr, t, k + 1, ht, by simpa using hlt, hcons _ t (by rwa [State.writeBytes_readGpr_fun] at hs), .inr ?_⟩
          rcases hwhy with ⟨h, _⟩ | ⟨_, had', htr⟩
          · rw [wordAligned_sub_four] at h; simp [hal] at h
          · rw [State.writeBytes_cfg] at had'
            exact ⟨hal, had'.succ (frameSlot_succ top) had, by rw [frameSlot_succ]; exact htr⟩
      · have had' : admits s.cfg (top - 4) 4 .store = false := by simpa using had
        rw [e, if_pos hal, if_neg had]
        exact .inr ⟨_, _, 0, rfl, by simp, StoredWords.nil s _, .inr ⟨hal, ⟨by simp, fun j hj => by omega, had'⟩, rfl⟩⟩
    · have hal' : wordAligned top = false := by simpa using hal
      rw [e, if_neg hal]
      exact .inr ⟨_, _, 0, rfl, by simp, StoredWords.nil s _, .inl ⟨hal', rfl, rfl, rfl⟩⟩

theorem State.storeArgs_spec (bottom : Word) (rs : List Gpr) :
    (∃ t, s.storeArgs bottom rs = .ok t ∧ StoredWords s (argSlot bottom) (rs.map s.readGpr) t ∧
        ∀ k, k < rs.length → wordAligned bottom = true ∧ admits s.cfg (argSlot bottom k) 4 .store = true) ∨
    (∃ tr t k, s.storeArgs bottom rs = .error (tr, t) ∧ k < rs.length ∧
        StoredWords s (argSlot bottom) ((rs.map s.readGpr).take k) t ∧
        ((wordAligned bottom = false ∧ k = 0 ∧ t = s ∧ tr = .raise .addressError (some (argSlot bottom 0))) ∨
          (wordAligned bottom = true ∧ FirstUnadmitted s.cfg (argSlot bottom) rs.length k .store ∧
            tr = .fault (.unmappedAccess (argSlot bottom k) .store)))) := by
  induction rs generalizing s bottom with
  | nil => exact .inl ⟨s, rfl, StoredWords.nil s _, fun k h => absurd h (by simp)⟩
  | cons r rs ih =>
    have hslot : (fun k => argSlot bottom (k + 1)) = argSlot (bottom + 4) := funext fun k => argSlot_succ bottom k
    have hcons : ∀ ws t,
        StoredWords (s.writeBytes bottom (wordToBytes s.cfg.bigEndian (s.readGpr r))) (argSlot (bottom + 4)) ws t →
        StoredWords s (argSlot bottom) (s.readGpr r :: ws) t := fun ws t h =>
      StoredWords.cons s (argSlot bottom) (s.readGpr r) ws t (by rw [hslot, argSlot_zero]; exact h)
    have e : s.storeArgs bottom (r :: rs) =
        if wordAligned bottom then
          (if admits s.cfg bottom 4 .store then
              (s.writeBytes bottom (wordToBytes s.cfg.bigEndian (s.readGpr r))).storeArgs (bottom + 4) rs
            else .error (.fault (.unmappedAccess bottom .store), s))
        else .error (.raise .addressError (some bottom), s) := by
      simp only [State.storeArgs, State.storeWord_eq]
      split_ifs <;> rfl
    by_cases hal : wordAligned bottom = true
    · by_cases had : admits s.cfg bottom 4 .store = true
      · rw [e, if_pos hal, if_pos had]
        rcases ih (s.writeBytes bottom (wordToBytes s.cfg.bigEndian (s.readGpr r))) (bottom + 4) with
          ⟨t, ht, hs, hk⟩ | ⟨tr, t, k, ht, hlt, hs, hwhy⟩
        · refine .inl ⟨t, ht, hcons _ t (by rwa [State.writeBytes_readGpr_fun] at hs), ?_⟩
          intro k hklt
          cases k with
          | zero => exact ⟨hal, by rw [argSlot_zero]; exact had⟩
          | succ k =>
            have := hk k (by simpa using hklt)
            rw [argSlot_succ]; exact ⟨hal, by simpa using this.2⟩
        · refine .inr ⟨tr, t, k + 1, ht, by simpa using hlt, hcons _ t (by rwa [State.writeBytes_readGpr_fun] at hs), .inr ?_⟩
          rcases hwhy with ⟨h, _⟩ | ⟨_, had', htr⟩
          · rw [wordAligned_add_four] at h; simp [hal] at h
          · rw [State.writeBytes_cfg] at had'
            exact ⟨hal, had'.succ (argSlot_succ bottom) (by rw [argSlot_zero]; exact had), by rw [argSlot_succ]; exact htr⟩
      · have had' : admits s.cfg bottom 4 .store = false := by simpa using had
        rw [e, if_pos hal, if_neg had]
        exact .inr ⟨_, _, 0, rfl, by simp, StoredWords.nil s _, .inr ⟨hal,
          ⟨by simp, fun j hj => by omega, by rw [argSlot_zero]; exact had'⟩, by rw [argSlot_zero]⟩⟩
    · have hal' : wordAligned bottom = false := by simpa using hal
      rw [e, if_neg hal]
      exact .inr ⟨_, _, 0, rfl, by simp, StoredWords.nil s _, .inl ⟨hal', rfl, rfl, by rw [argSlot_zero]⟩⟩

/-! ## Ends of a rule and of a step -/

/-- What a load can do, if it answers a next state. -/
theorem State.finishLoad_next (r : Gpr) (got : Except Trap Word) (t : State)
    (h : s.finishLoad r got = .next t) :
    (∃ v, got = .ok v ∧ t = (s.writeGpr r v).advance 4) ∨
    (∃ k a, got = .error (.raise k a) ∧ t = s.raise k a) := by
  match got with
  | .ok v => exact .inl ⟨v, rfl, by simpa [State.finishLoad, State.setAndAdvance] using h.symm⟩
  | .error (.raise k a) => exact .inr ⟨k, a, rfl, by simpa [State.finishLoad, State.trap] using h.symm⟩
  | .error (.fault f) => simp [State.finishLoad, State.trap] at h

/-- What a store can do, if it answers a next state. -/
theorem State.finishStore_next (got : Except Trap State) (t : State) (h : s.finishStore got = .next t) :
    (∃ s', got = .ok s' ∧ t = s'.advance 4) ∨ (∃ k a, got = .error (.raise k a) ∧ t = s.raise k a) := by
  match got with
  | .ok s' => exact .inl ⟨s', rfl, by simpa [State.finishStore] using h.symm⟩
  | .error (.raise k a) => exact .inr ⟨k, a, rfl, by simpa [State.finishStore, State.trap] using h.symm⟩
  | .error (.fault f) => simp [State.finishStore, State.trap] at h

/-- What the end of SAVE and RESTORE can do, if it answers a next state. -/
theorem finishFrame_next (sp len : Word) (got : Except (Trap × State) State) (t : State)
    (h : finishFrame sp len got = .next t) :
    (∃ s', got = .ok s' ∧ t = (s'.writeGpr regSp sp).advance len) ∨
    (∃ k a s', got = .error (.raise k a, s') ∧ t = s'.raise k a) := by
  match got with
  | .ok s' => exact .inl ⟨s', rfl, by simpa [finishFrame, State.setAndAdvance] using h.symm⟩
  | .error (.raise k a, s') => exact .inr ⟨k, a, s', rfl, by simpa [finishFrame, State.trapFrame] using h.symm⟩
  | .error (.fault f, s') => cases f <;> simp [finishFrame, State.trapFrame] at h

/-- A transfer that is not admitted ends SAVE and RESTORE in the fault that reports the state it leaves. -/
@[simp] theorem finishFrame_unmapped (sp len : Word) (a : Word) (kind : AccessKind) (s' : State) :
    finishFrame sp len (.error (.fault (.unmappedAccess a kind), s')) =
      .fault (.unmappedTransfer a kind { s' with delay := none }) := rfl

/-- What the end of a step can do, if it answers a next state (10_state R30 line 6). -/
theorem State.retire_next (pending : Option Delay) (t : State) (h : s.retire pending = .next t) :
    (t = s ∧ (s.exc.isSome ∨ pending = none)) ∨
    (∃ d, pending = some d ∧ s.exc = none ∧ d.holds s = true ∧
      t = { s with delay := none, pc := d.target, isaMode := d.mode }) := by
  unfold State.retire at h
  split at h
  · next e he => exact .inl ⟨by simpa using h.symm, .inl (by simp [he])⟩
  · exact .inl ⟨by simpa using h.symm, .inr rfl⟩
  · next d he =>
    split at h
    · next hd => exact .inr ⟨d, rfl, he, hd, by simpa using h.symm⟩
    · simp at h

/-- What a step can do, if it answers a next state: an Address Error on a 32-bit-mode fetch, or a decoded
instruction that may stand where it does, run and retired. -/
theorem step_next (s t : State) (h : step s = .next t) :
    s.exc = none ∧
    ((s.isaMode = false ∧ wordAligned s.pc = false ∧ t = s.raise .addressError (some s.pc)) ∨
      ∃ c i s', (if s.isaMode then s.fetchCode16 else s.fetchCode32) = .ok c ∧ decode c = .ok i ∧
        slotRejectsCode s.delay.isSome c = false ∧ (s.delay.isSome = true → i.isBranchOrJump = false) ∧
        exec i s = .next s' ∧ s'.retire s.delay = .next t) := by
  simp only [step, State.runStep] at h
  split at h
  · cases h
  · next hexc =>
    refine ⟨hexc, ?_⟩
    have run : ∀ got, s.runFetched got = .next t → ∃ c i s', got = .ok c ∧ decode c = .ok i ∧
        slotRejectsCode s.delay.isSome c = false ∧ (s.delay.isSome = true → i.isBranchOrJump = false) ∧
        exec i s = .next s' ∧ s'.retire s.delay = .next t := by
      intro got hr
      match got with
      | .error f => cases hr
      | .ok c =>
        simp only [State.runFetched, State.runCode] at hr
        split at hr
        · cases hr
        · next hslot =>
          split at hr
          · cases hr
          · next i hdec =>
            split at hr
            · next stop hstop =>
              unfold slotStop at hstop
              split at hstop
              · split at hstop <;> · cases hstop; cases hr
              · cases hstop
            · next hstop =>
              have hbj : s.delay.isSome = true → i.isBranchOrJump = false := by
                intro hd
                unfold slotStop at hstop
                split at hstop
                · split at hstop <;> cases hstop
                · next hb => simpa [hd] using hb
              simp only [State.runInstr] at hr
              split at hr
              · next s' hex => exact ⟨c, i, s', rfl, hdec, by simpa using hslot, hbj, hex, hr⟩
              · cases hr
              · cases hr
    split at h
    · next hm => exact .inr (by simpa [hm] using run _ h)
    · next hm =>
      have hm' : s.isaMode = false := by simpa using hm
      split at h
      · exact .inr (by simpa [hm'] using run _ h)
      · next hal => exact .inl ⟨hm', by simpa using hal, by simpa using h.symm⟩

end Sys2Proof.Machine
end

