-- ==== Sys2Proof/Laws/Encoding.lean ====
section
/-! SUPPORT. The fields of what the encoder packs, and the halfwords that the fields rebuild. -/

namespace Sys2Proof

variable (op f : BitVec 5) (rx ry : BitVec 3)

/-! ## Fields of a packed halfword (30_encoding R83, R84) -/

@[simp] theorem Code.op_pack : Code.op (Code.pack op rx ry f) = op := by
  apply BitVec.eq_of_getLsbD_eq
  intro i hi
  simp only [Code.op, Code.pack, BitVec.getLsbD_append, BitVec.getLsbD_extractLsb']
  interval_cases i <;> simp

@[simp] theorem Code.rx_pack : Code.rx (Code.pack op rx ry f) = rx := by
  apply BitVec.eq_of_getLsbD_eq
  intro i hi
  simp only [Code.rx, Code.pack, BitVec.getLsbD_append, BitVec.getLsbD_extractLsb']
  interval_cases i <;> simp

@[simp] theorem Code.ry_pack : Code.ry (Code.pack op rx ry f) = ry := by
  apply BitVec.eq_of_getLsbD_eq
  intro i hi
  simp only [Code.ry, Code.pack, BitVec.getLsbD_append, BitVec.getLsbD_extractLsb']
  interval_cases i <;> simp

@[simp] theorem Code.f5_pack : Code.f5 (Code.pack op rx ry f) = f := by
  apply BitVec.eq_of_getLsbD_eq
  intro i hi
  simp only [Code.f5, Code.pack, BitVec.getLsbD_append, BitVec.getLsbD_extractLsb']
  interval_cases i <;> simp

/-- A piece of the low five bits. -/
theorem Code.low_pack (a k : Nat) (h : a + k ≤ 5) :
    (Code.pack op rx ry f).extractLsb' a k = f.extractLsb' a k := by
  apply BitVec.eq_of_getLsbD_eq
  intro i hi
  have h1 : a + i < 5 := by omega
  simp only [Code.pack, BitVec.getLsbD_append, BitVec.getLsbD_extractLsb', h1, if_true]

/-- One of the low five bits. -/
theorem Code.getLsbD_low_pack (i : Nat) (h : i < 5) : (Code.pack op rx ry f).getLsbD i = f.getLsbD i := by
  simp only [Code.pack, BitVec.getLsbD_append, h, if_true]

/-- One of bits 7:5. -/
theorem Code.getLsbD_mid_pack (i : Nat) (h : i < 3) : (Code.pack op rx ry f).getLsbD (5 + i) = ry.getLsbD i := by
  have h1 : ¬ 5 + i < 5 := by omega
  have h2 : 5 + i - 5 = i := by omega
  simp only [Code.pack, BitVec.getLsbD_append, h1, if_false, h2, h, if_true]

/-- The four fields of a halfword rebuild it. -/
theorem Code.pack_fields (hw : Half) : Code.pack (Code.op hw) (Code.rx hw) (Code.ry hw) (Code.f5 hw) = hw := by
  apply BitVec.eq_of_getLsbD_eq
  intro i hi
  simp only [Code.op, Code.rx, Code.ry, Code.f5, Code.pack, BitVec.getLsbD_append, BitVec.getLsbD_extractLsb']
  interval_cases i <;> simp

/-! ## Fields of the first halfwords (30_encoding R84) -/

@[simp] theorem Code.op_extend16 (imm : BitVec 16) : Code.op (Code.extend16 imm) = 0b11110#5 := by
  apply BitVec.eq_of_getLsbD_eq
  intro i hi
  simp only [Code.op, Code.extend16, BitVec.getLsbD_append, BitVec.getLsbD_extractLsb']
  interval_cases i <;> simp

/-- The 16-bit immediate is put together again (R86). -/
@[simp] theorem Code.imm16_extend16 (imm : BitVec 16) :
    Code.imm16 (Code.extend16 imm) (Code.pack op rx ry (imm.extractLsb' 0 5)) = imm := by
  apply BitVec.eq_of_getLsbD_eq
  intro i hi
  simp only [Code.imm16, Code.extend16, Code.pack, BitVec.getLsbD_append, BitVec.getLsbD_extractLsb']
  interval_cases i <;> simp

/-- The 15-bit immediate is put together again (R87). -/
theorem Code.imm15_rria (imm : BitVec 15) :
    Code.imm15 (0b11110#5 ++ imm.extractLsb' 4 7 ++ imm.extractLsb' 11 4)
      (Code.pack op rx ry (0b0#1 ++ imm.extractLsb' 0 4)) = imm := by
  apply BitVec.eq_of_getLsbD_eq
  intro i hi
  simp only [Code.imm15, Code.pack, BitVec.getLsbD_append, BitVec.getLsbD_extractLsb']
  interval_cases i <;> simp

/-- The 26-bit target is put together again (R88). -/
theorem Code.target26_jal (x : Bool) (target : BitVec 26) :
    Code.target26 (0b00011#5 ++ BitVec.ofBool x ++ target.extractLsb' 16 5 ++ target.extractLsb' 21 5)
      (target.extractLsb' 0 16) = target := by
  apply BitVec.eq_of_getLsbD_eq
  intro i hi
  simp only [Code.target26, BitVec.getLsbD_append, BitVec.getLsbD_extractLsb']
  interval_cases i <;> simp

/-- The 8-bit frame size is put together again (R88). -/
theorem Code.framesize8_svrs (xsregs : BitVec 3) (aregs : BitVec 4) (fs : BitVec 8) (s ra s0 s1 : Bool) :
    Code.framesize8 (0b11110#5 ++ xsregs ++ fs.extractLsb' 4 4 ++ aregs)
      (Code.svrs s ra s0 s1 (fs.extractLsb' 0 4)) = fs := by
  apply BitVec.eq_of_getLsbD_eq
  intro i hi
  simp only [Code.framesize8, Code.svrs, Code.pack, BitVec.getLsbD_append, BitVec.getLsbD_extractLsb']
  interval_cases i <;> simp

/-- The bits of a SVRS halfword (R83). -/
theorem Code.svrs_bits (s ra s0 s1 : Bool) (fs : BitVec 4) :
    (Code.svrs s ra s0 s1 fs).getLsbD 7 = s ∧ (Code.svrs s ra s0 s1 fs).getLsbD 6 = ra ∧
    (Code.svrs s ra s0 s1 fs).getLsbD 5 = s0 ∧ (Code.svrs s ra s0 s1 fs).getLsbD 4 = s1 ∧
    (Code.svrs s ra s0 s1 fs).extractLsb' 0 4 = fs := by
  refine ⟨?_, ?_, ?_, ?_, ?_⟩
  · simp only [Code.svrs, Code.pack, BitVec.getLsbD_append]; simp
  · simp only [Code.svrs, Code.pack, BitVec.getLsbD_append]; simp
  · simp only [Code.svrs, Code.pack, BitVec.getLsbD_append]; simp
  · simp only [Code.svrs, Code.pack, BitVec.getLsbD_append]; simp
  · apply BitVec.eq_of_getLsbD_eq
    intro i hi
    simp only [Code.svrs, Code.pack, BitVec.getLsbD_append, BitVec.getLsbD_extractLsb']
    interval_cases i <;> simp

/-! ## Two halfwords in memory -/

/-- A halfword laid out in either byte order is read back. -/
theorem bytesToHalf_of_halfToBytes (be : Bool) (h : Half) :
    ∃ b0 b1, halfToBytes be h = [b0, b1] ∧ bytesToHalf be b0 b1 = h := by
  have hh : h.extractLsb' 8 8 ++ h.extractLsb' 0 8 = h := by
    apply BitVec.eq_of_getLsbD_eq
    intro i hi
    simp only [BitVec.getLsbD_append, BitVec.getLsbD_extractLsb']
    interval_cases i <;> simp
  cases be
  · exact ⟨_, _, rfl, by simpa [bytesToHalf] using hh⟩
  · exact ⟨_, _, rfl, by simpa [bytesToHalf] using hh⟩

/-- A word laid out in either byte order is read back. -/
theorem bytesToWord_of_wordToBytes (be : Bool) (w : Word) :
    ∃ b0 b1 b2 b3, wordToBytes be w = [b0, b1, b2, b3] ∧ bytesToWord be b0 b1 b2 b3 = w := by
  have hw : w.extractLsb' 24 8 ++ w.extractLsb' 16 8 ++ w.extractLsb' 8 8 ++ w.extractLsb' 0 8 = w := by
    apply BitVec.eq_of_getLsbD_eq
    intro i hi
    simp only [BitVec.getLsbD_append, BitVec.getLsbD_extractLsb']
    interval_cases i <;> simp
  cases be
  · exact ⟨_, _, _, _, rfl, by simpa [bytesToWord] using hw⟩
  · exact ⟨_, _, _, _, rfl, by simpa [bytesToWord] using hw⟩

end Sys2Proof
end

