-- ==== Sys2Proof/Laws/Exec.lean ====
section
/-! SUPPORT. What an instruction can do, said once: the shapes of the states that `exec` answers. -/

namespace Sys2Proof.Machine

/-- A register that an instruction other than a link or a frame instruction may write. -/
def MayWrite (i : Instr) (r : Gpr) : Prop :=
  (∃ f, r = xlat f) ∨ r = regT ∨ r = regSp ∨ ∃ r32 rz, i = .moveR32Rz r32 rz ∧ r = direct r32

/-- The state after an instruction, from the state before it. -/
inductive Effect (i : Instr) (s : State) : State → Prop
  /-- One register written, and the next instruction. -/
  | writes (r : Gpr) (v len : Word) (hr : MayWrite i r) (hl : len = 2 ∨ len = 4) : Effect i s ((s.writeGpr r v).advance len)
  /-- NOP. -/
  | nothing : Effect i s (s.advance 2)
  /-- A product, or a quotient and remainder. -/
  | hiLo (hi lo : Word) (h : ∃ rx ry, i = .mult rx ry ∨ i = .multu rx ry ∨ i = .div rx ry ∨ i = .divu rx ry) :
    Effect i s ((s.writeHiLo hi lo).advance 2)
  /-- A division with no stated result. -/
  | draws (h : ∃ rx ry, i = .div rx ry ∨ i = .divu rx ry) : Effect i s (s.drawHiLo.advance 2)
  /-- A branch. -/
  | branch (c : Bool) (off : BitVec 16) :
    Effect i s (if c then s.jumpNow (branchTarget s.pc off) s.isaMode else s.advance 4)
  /-- JRC. -/
  | compact (r : Gpr) (h : (i = .jrcRa ∧ r = regRa) ∨ ∃ rx, i = .jrcRx rx ∧ r = xlat rx) :
    Effect i s (s.jumpNow (jumpTarget (s.readGpr r)) (jumpMode (s.readGpr r)))
  /-- JALRC. -/
  | compactLink (rx : BitVec 3) (h : i = .jalrc rx) :
    Effect i s ((s.writeGpr regRa (linkValue s.pc s.isaMode 2)).jumpNow (jumpTarget (s.readGpr (xlat rx)))
      (jumpMode (s.readGpr (xlat rx))))
  /-- JR. -/
  | jump (r : Gpr) (h : (i = .jrRa ∧ r = regRa) ∨ ∃ rx, i = .jrRx rx ∧ r = xlat rx) :
    Effect i s (s.jumpAfterSlot 2 (jumpTarget (s.readGpr r)) (jumpMode (s.readGpr r)) (some r))
  /-- JALR. -/
  | jumpLink (rx : BitVec 3) (h : i = .jalr rx) :
    Effect i s ((s.writeGpr regRa (linkValue s.pc s.isaMode 4)).jumpAfterSlot 2 (jumpTarget (s.readGpr (xlat rx)))
      (jumpMode (s.readGpr (xlat rx))) (some (xlat rx)))
  /-- JAL and 32-bit JALX. -/
  | region (link : Word) (target : BitVec 26) (mode : Bool)
      (h : (i = .jal target ∧ mode = s.isaMode) ∨ (i = .jalx target ∧ mode = !s.isaMode)) :
    Effect i s ((s.writeGpr regRa link).jumpAfterSlot 4 (regionTarget s.pc target) mode none)
  /-- An exception with no other effect; an Address Error, alone, has an address. -/
  | raises (kind : ExcKind) (addr : Option Word)
      (h : (kind = .addressError ∧ addr ≠ none) ∨ (kind ∈ [.breakpoint, .reservedInstruction] ∧ addr = none)) :
    Effect i s (s.raise kind addr)
  /-- SDBBP. -/
  | raisesDebug (kind : ExcKind) (code : BitVec 5) (hk : kind = .debugBreakpoint ∨ kind = .debugModeBreakpoint) :
    Effect i s { s.raiseDebug kind with debugDExcCode := code }
  /-- A store. -/
  | stores (a : Word) (bs : List Byte) : Effect i s ((s.writeBytes a bs).advance 4)
  /-- SAVE. -/
  | saves (s1 s2 : State) (args regs : List Gpr) (sp len : Word) (hl : len = 2 ∨ len = 4)
      (h1 : StoredWords s (argSlot (s.readGpr regSp)) (args.map s.readGpr) s1)
      (h2 : StoredWords s1 (frameSlot (s.readGpr regSp)) (regs.map s1.readGpr) s2) :
    Effect i s ((s2.writeGpr regSp sp).advance len)
  /-- RESTORE. -/
  | restores (s1 : State) (top sp len : Word) (ra s0 s1' : Bool) (xs : BitVec 3) (n : Nat) (hl : len = 2 ∨ len = 4)
      (h : LoadedFrame s top (frameRegs ra s0 s1' (xsRegs xs) (staticRegs n)) s1) :
    Effect i s ((s1.writeGpr regSp sp).advance len)

/-- A register written, one of those an `xlat` field, GPR 24 or GPR 29 name. -/
theorem Effect.ofSet (i : Instr) (s t : State) (r : Gpr) (v len : Word) (hr : MayWrite i r) (hl : len = 2 ∨ len = 4)
    (h : s.setAndAdvance r v len = .next t) : Effect i s t := by
  cases h; exact .writes r v len hr hl

/-- A load ends in its register or in an Address Error. -/
theorem Effect.ofLoad (i : Instr) (s t : State) (f : BitVec 3) (got : Except Trap Word)
    (hk : ∀ k a, got = .error (.raise k a) → k = .addressError ∧ a ≠ none)
    (h : s.finishLoad (xlat f) got = .next t) : Effect i s t := by
  rcases s.finishLoad_next _ _ _ h with ⟨v, _, rfl⟩ | ⟨k, a, hg, rfl⟩
  · exact .writes _ _ _ (.inl ⟨f, rfl⟩) (.inr rfl)
  · exact .raises _ _ (.inl (hk k a hg))

/-- A store ends in its bytes or in an Address Error. -/
theorem Effect.ofStore (i : Instr) (s t : State) (got : Except Trap State)
    (hs : ∀ s', got = .ok s' → ∃ a bs, s' = s.writeBytes a bs)
    (hk : ∀ k a, got = .error (.raise k a) → k = .addressError ∧ a ≠ none)
    (h : s.finishStore got = .next t) : Effect i s t := by
  rcases s.finishStore_next _ _ h with ⟨s', hg, rfl⟩ | ⟨k, a, hg, rfl⟩
  · obtain ⟨a, bs, rfl⟩ := hs s' hg; exact .stores a bs
  · exact .raises _ _ (.inl (hk k a hg))

/-- SAVE ends with its words stored, or in an Address Error at its first transfer. -/
theorem Effect.ofSave (i : Instr) (s t : State) (size len : Word) (args regs : List Gpr) (hl : len = 2 ∨ len = 4)
    (h : s.saveFrame size len args regs = .next t) : Effect i s t := by
  unfold State.saveFrame at h
  rcases s.storeArgs_spec (s.readGpr regSp) args with ⟨s1, e1, h1, hal⟩ | ⟨tr, s1, k, e1, hk, h1, hwhy⟩
  · rw [e1] at h
    have hsp : s1.readGpr regSp = s.readGpr regSp := by rw [h1.onlyMem]; rfl
    rcases s1.storeFrame_spec (s.readGpr regSp) regs with ⟨s2, e2, h2, _⟩ | ⟨tr, s2, k, e2, hk, h2, hwhy⟩
    · simp only [e2, finishFrame, State.setAndAdvance, Host.Outcome.next.injEq] at h
      subst h; exact .saves s1 s2 args regs _ len hl h1 h2
    · simp only [e2, finishFrame] at h
      rcases hwhy with ⟨hw, rfl, rfl, rfl⟩ | ⟨_, _, rfl⟩
      · have e4 : s2 = s := by
          cases args with
          | nil => simpa [State.storeArgs] using e1.symm
          | cons r rs => have := (hal 0 (by simp)).1; rw [hw] at this; cases this
        simp only [State.trapFrame, Host.Outcome.next.injEq] at h
        rw [e4] at h; subst h; exact .raises _ _ (.inl ⟨rfl, by simp⟩)
      · cases h
  · rw [e1] at h
    rcases hwhy with ⟨_, rfl, rfl, rfl⟩ | ⟨_, _, rfl⟩
    · simp only [finishFrame, State.trapFrame, Host.Outcome.next.injEq] at h
      subst h; exact .raises _ _ (.inl ⟨rfl, by simp⟩)
    · cases h

/-- RESTORE ends with its registers loaded, or in an Address Error at its first transfer. -/
theorem Effect.ofRestore (i : Instr) (s t : State) (size len : Word) (ra s0 s1 : Bool) (xs : BitVec 3) (n : Nat)
    (hl : len = 2 ∨ len = 4)
    (h : s.restoreFrame size len (frameRegs ra s0 s1 (xsRegs xs) (staticRegs n)) = .next t) : Effect i s t := by
  unfold State.restoreFrame at h
  rcases s.loadFrame_spec (s.readGpr regSp + size) (frameRegs ra s0 s1 (xsRegs xs) (staticRegs n)) with
    ⟨u, e, hu, _⟩ | ⟨tr, u, k, e, _, _, ⟨_, _, rfl, rfl⟩ | ⟨_, _, rfl⟩⟩
  · simp only [e, finishFrame, State.setAndAdvance, Host.Outcome.next.injEq] at h
    subst h; exact .restores u _ _ len ra s0 s1 xs n hl hu
  · simp only [e, finishFrame, State.trapFrame, Host.Outcome.next.injEq] at h
    subst h; exact .raises _ _ (.inl ⟨rfl, by simp⟩)
  · rw [e] at h; cases h

/-- What `exec` can do, if it answers a next state. -/
theorem exec_effect (i : Instr) (s t : State) (h : exec i s = .next t) : Effect i s t := by
  have lb : ∀ a k b, s.loadByte a = .error (.raise k b) → k = .addressError ∧ b ≠ none := by
    intro a k b; rw [State.loadByte_eq]; split <;> simp
  have lh : ∀ a k b, s.loadHalf a = .error (.raise k b) → k = .addressError ∧ b ≠ none := by
    intro a k b; rw [State.loadHalf_eq]; split_ifs <;> simp +contextual [eq_comm]
  have lw : ∀ a k b, s.loadWord a = .error (.raise k b) → k = .addressError ∧ b ≠ none := by
    intro a k b; rw [State.loadWord_eq]; split_ifs <;> simp +contextual [eq_comm]
  have mapped : ∀ {α} (e : Except Trap α) (f : α → Word) k b, e.map f = .error (.raise k b) → e = .error (.raise k b) := by
    intro α e f k b; cases e <;> simp [Except.map]
  have sb : ∀ a b,
      (∀ s', s.storeByte a b = .ok s' → ∃ a bs, s' = s.writeBytes a bs) ∧
      ∀ k c, s.storeByte a b = .error (.raise k c) → k = .addressError ∧ c ≠ none := by
    intro a b; rw [State.storeByte_eq]; split
    · exact ⟨fun s' h => ⟨_, _, by simpa using h.symm⟩, by simp⟩
    · simp
  have sh : ∀ a b,
      (∀ s', s.storeHalf a b = .ok s' → ∃ a bs, s' = s.writeBytes a bs) ∧
      ∀ k c, s.storeHalf a b = .error (.raise k c) → k = .addressError ∧ c ≠ none := by
    intro a b; rw [State.storeHalf_eq]; split_ifs
    · exact ⟨fun s' h => ⟨_, _, by simpa using h.symm⟩, by simp⟩
    · simp
    · exact ⟨by simp, by simp +contextual [eq_comm]⟩
  have sw : ∀ a b,
      (∀ s', s.storeWord a b = .ok s' → ∃ a bs, s' = s.writeBytes a bs) ∧
      ∀ k c, s.storeWord a b = .error (.raise k c) → k = .addressError ∧ c ≠ none := by
    intro a b; rw [State.storeWord_eq]; split_ifs
    · exact ⟨fun s' h => ⟨_, _, by simpa using h.symm⟩, by simp⟩
    · simp
    · exact ⟨by simp, by simp +contextual [eq_comm]⟩
  have ofX : ∀ (f : BitVec 3), MayWrite i (xlat f) := fun f => .inl ⟨f, rfl⟩
  cases i with
  | addiuRxImm rx imm => exact .ofSet _ _ _ _ _ _ (ofX _) (.inr rfl) h
  | addiuRxPcImm rx imm => exact .ofSet _ _ _ _ _ _ (ofX _) (.inr rfl) h
  | addiuRxSpImm rx imm => exact .ofSet _ _ _ _ _ _ (ofX _) (.inr rfl) h
  | addiuRyRxImm ry rx imm => exact .ofSet _ _ _ _ _ _ (ofX _) (.inr rfl) h
  | addiuSpImm imm => exact .ofSet _ _ _ _ _ _ (.inr (.inr (.inl rfl))) (.inr rfl) h
  | addu rz rx ry => exact .ofSet _ _ _ _ _ _ (ofX _) (.inl rfl) h
  | neg rx ry => exact .ofSet _ _ _ _ _ _ (ofX _) (.inl rfl) h
  | subu rz rx ry => exact .ofSet _ _ _ _ _ _ (ofX _) (.inl rfl) h
  | and rx ry => exact .ofSet _ _ _ _ _ _ (ofX _) (.inl rfl) h
  | cmpi rx imm => exact .ofSet _ _ _ _ _ _ (.inr (.inl rfl)) (.inr rfl) h
  | cmp rx ry => exact .ofSet _ _ _ _ _ _ (.inr (.inl rfl)) (.inl rfl) h
  | li rx imm => exact .ofSet _ _ _ _ _ _ (ofX _) (.inr rfl) h
  | moveR32Rz r32 rz => exact .ofSet _ _ _ _ _ _ (.inr (.inr (.inr ⟨_, _, rfl, rfl⟩))) (.inl rfl) h
  | moveRyR32 ry r32 => exact .ofSet _ _ _ _ _ _ (ofX _) (.inl rfl) h
  | nop => cases h; exact .nothing
  | not rx ry => exact .ofSet _ _ _ _ _ _ (ofX _) (.inl rfl) h
  | or rx ry => exact .ofSet _ _ _ _ _ _ (ofX _) (.inl rfl) h
  | seb rx => exact .ofSet _ _ _ _ _ _ (ofX _) (.inl rfl) h
  | seh rx => exact .ofSet _ _ _ _ _ _ (ofX _) (.inl rfl) h
  | slti rx imm => exact .ofSet _ _ _ _ _ _ (.inr (.inl rfl)) (.inr rfl) h
  | sltiu rx imm => exact .ofSet _ _ _ _ _ _ (.inr (.inl rfl)) (.inr rfl) h
  | slt rx ry => exact .ofSet _ _ _ _ _ _ (.inr (.inl rfl)) (.inl rfl) h
  | sltu rx ry => exact .ofSet _ _ _ _ _ _ (.inr (.inl rfl)) (.inl rfl) h
  | xor rx ry => exact .ofSet _ _ _ _ _ _ (ofX _) (.inl rfl) h
  | zeb rx => exact .ofSet _ _ _ _ _ _ (ofX _) (.inl rfl) h
  | zeh rx => exact .ofSet _ _ _ _ _ _ (ofX _) (.inl rfl) h
  | asmacro select p0 p1 p2 p3 p4 => simp only [exec, execAsmacro] at h; split at h <;> cases h; exact .raises _ _ (.inr ⟨by simp, rfl⟩)
  | brk code => cases h; exact .raises _ _ (.inr ⟨by simp, rfl⟩)
  | sdbbp code =>
    simp only [exec, execSdbbp] at h
    split at h <;> cases h
    · exact .raisesDebug .debugModeBreakpoint 0x9#5 (.inr rfl)
    · exact .raisesDebug .debugBreakpoint s.debugDExcCode (.inl rfl)
  | beqz rx off => cases h; exact .branch _ _
  | bnez rx off => cases h; exact .branch _ _
  | b off => cases h; exact .branch _ _
  | bteqz off => cases h; exact .branch _ _
  | btnez off => cases h; exact .branch _ _
  | jalrc rx => cases h; exact .compactLink _ rfl
  | jalr rx => cases h; exact .jumpLink _ rfl
  | jal target => cases h; exact .region _ _ _ (.inl ⟨rfl, rfl⟩)
  | jalx index => cases h; exact .region _ _ _ (.inr ⟨rfl, rfl⟩)
  | jrcRa => cases h; exact .compact _ (.inl ⟨rfl, rfl⟩)
  | jrcRx rx => cases h; exact .compact _ (.inr ⟨_, rfl, rfl⟩)
  | jrRa => cases h; exact .jump _ (.inl ⟨rfl, rfl⟩)
  | jrRx rx => cases h; exact .jump _ (.inr ⟨_, rfl, rfl⟩)
  | jalx16 target => cases h
  | div rx ry =>
    simp only [exec, execDiv] at h
    split at h <;> cases h
    · exact .draws ⟨_, _, .inl rfl⟩
    · exact .hiLo _ _ ⟨_, _, .inr (.inr (.inl rfl))⟩
  | divu rx ry =>
    simp only [exec, execDivu] at h
    split at h <;> cases h
    · exact .draws ⟨_, _, .inr rfl⟩
    · exact .hiLo _ _ ⟨_, _, .inr (.inr (.inr rfl))⟩
  | mfhi rx => exact .ofSet _ _ _ _ _ _ (ofX _) (.inl rfl) h
  | mflo rx => exact .ofSet _ _ _ _ _ _ (ofX _) (.inl rfl) h
  | mult rx ry => cases h; exact .hiLo _ _ ⟨_, _, .inl rfl⟩
  | multu rx ry => cases h; exact .hiLo _ _ ⟨_, _, .inr (.inl rfl)⟩
  | lb ry off rx => exact .ofLoad _ _ _ _ _ (fun k b hg => lb _ k b (mapped _ _ _ _ hg)) h
  | lbu ry off rx => exact .ofLoad _ _ _ _ _ (fun k b hg => lb _ k b (mapped _ _ _ _ hg)) h
  | lh ry off rx => exact .ofLoad _ _ _ _ _ (fun k b hg => lh _ k b (mapped _ _ _ _ hg)) h
  | lhu ry off rx => exact .ofLoad _ _ _ _ _ (fun k b hg => lh _ k b (mapped _ _ _ _ hg)) h
  | lwRxPc rx off => exact .ofLoad _ _ _ _ _ (fun k b hg => lw _ k b hg) h
  | lwRxSp rx off => exact .ofLoad _ _ _ _ _ (fun k b hg => lw _ k b hg) h
  | lwRyRx ry off rx => exact .ofLoad _ _ _ _ _ (fun k b hg => lw _ k b hg) h
  | sb ry off rx => exact .ofStore _ _ _ _ (sb _ _).1 (sb _ _).2 h
  | sh ry off rx => exact .ofStore _ _ _ _ (sh _ _).1 (sh _ _).2 h
  | swRaSp off => exact .ofStore _ _ _ _ (sw _ _).1 (sw _ _).2 h
  | swRxSp rx off => exact .ofStore _ _ _ _ (sw _ _).1 (sw _ _).2 h
  | swRyRx ry off rx => exact .ofStore _ _ _ _ (sw _ _).1 (sw _ _).2 h
  | restore ra s0 s1 framesize => exact .ofRestore _ _ _ _ _ ra s0 s1 0 0 (.inl rfl) h
  | restoreExt ra s0 s1 xsregs aregs framesize =>
    simp only [exec, execRestoreExt] at h
    split at h
    · cases h
    · exact .ofRestore _ _ _ _ _ ra s0 s1 _ _ (.inr rfl) h
  | save ra s0 s1 framesize => exact .ofSave _ _ _ (frameBytes4 framesize) 2 [] (frameRegs ra s0 s1 [] []) (.inl rfl) h
  | saveExt ra s0 s1 xsregs aregs framesize =>
    simp only [exec, execSaveExt] at h
    split at h
    · cases h
    · exact .ofSave _ _ _ _ _ _ _ (.inr rfl) h
  | sll rx ry sa => exact .ofSet _ _ _ _ _ _ (ofX _) (.inr rfl) h
  | sllv ry rx => exact .ofSet _ _ _ _ _ _ (ofX _) (.inl rfl) h
  | sra rx ry sa => exact .ofSet _ _ _ _ _ _ (ofX _) (.inr rfl) h
  | srav ry rx => exact .ofSet _ _ _ _ _ _ (ofX _) (.inl rfl) h
  | srl rx ry sa => exact .ofSet _ _ _ _ _ _ (ofX _) (.inr rfl) h
  | srlv ry rx => exact .ofSet _ _ _ _ _ _ (ofX _) (.inl rfl) h

end Sys2Proof.Machine
end

