-- ==== Sys2Proof/Laws/PerInstr.lean ====
section
/-! SUPPORT. Statements about every instruction, one lemma for each. -/

namespace Sys2Proof.Laws.EncodedLength

/-- An instruction's words occupy `len` bytes in memory, in either byte order (30_encoding R80, R82, R85). -/
def Statement (i : Instr) : Prop := ∀ be, ((encode i).bytes be).length = i.len

/-- A 16-bit instruction has two bytes. -/
theorem half (i : Instr) (hw : Half) (h : encode i = .half hw) (hl : i.len = 2) : Statement i := by
  intro be; simp [h, hl, Code.bytes]

/-- A 32-bit MIPS16e instruction has four. -/
theorem pair (i : Instr) (hw1 hw2 : Half) (h : encode i = .pair hw1 hw2) (hl : i.len = 4) : Statement i := by
  intro be; simp [h, hl, Code.bytes]

/-- The 32-bit JALX has four. -/
theorem word (i : Instr) (w : Word) (h : encode i = .mips32 w) (hl : i.len = 4) : Statement i := by
  intro be; simp [h, hl, Code.bytes]

theorem addiuRxImm (rx : BitVec 3) (imm : BitVec 16) : Statement (.addiuRxImm rx imm) := pair _ _ _ rfl rfl
theorem addiuRxPcImm (rx : BitVec 3) (imm : BitVec 16) : Statement (.addiuRxPcImm rx imm) := pair _ _ _ rfl rfl
theorem addiuRxSpImm (rx : BitVec 3) (imm : BitVec 16) : Statement (.addiuRxSpImm rx imm) := pair _ _ _ rfl rfl
theorem addiuRyRxImm (ry : BitVec 3) (rx : BitVec 3) (imm : BitVec 15) : Statement (.addiuRyRxImm ry rx imm) := pair _ _ _ rfl rfl
theorem addiuSpImm (imm : BitVec 16) : Statement (.addiuSpImm imm) := pair _ _ _ rfl rfl
theorem addu (rz : BitVec 3) (rx : BitVec 3) (ry : BitVec 3) : Statement (.addu rz rx ry) := half _ _ rfl rfl
theorem neg (rx : BitVec 3) (ry : BitVec 3) : Statement (.neg rx ry) := half _ _ rfl rfl
theorem subu (rz : BitVec 3) (rx : BitVec 3) (ry : BitVec 3) : Statement (.subu rz rx ry) := half _ _ rfl rfl
theorem and (rx : BitVec 3) (ry : BitVec 3) : Statement (.and rx ry) := half _ _ rfl rfl
theorem cmpi (rx : BitVec 3) (imm : BitVec 16) : Statement (.cmpi rx imm) := pair _ _ _ rfl rfl
theorem cmp (rx : BitVec 3) (ry : BitVec 3) : Statement (.cmp rx ry) := half _ _ rfl rfl
theorem li (rx : BitVec 3) (imm : BitVec 16) : Statement (.li rx imm) := pair _ _ _ rfl rfl
theorem moveR32Rz (r32 : BitVec 5) (rz : BitVec 3) : Statement (.moveR32Rz r32 rz) := half _ _ rfl rfl
theorem moveRyR32 (ry : BitVec 3) (r32 : BitVec 5) : Statement (.moveRyR32 ry r32) := half _ _ rfl rfl
theorem nop : Statement .nop := half _ _ rfl rfl
theorem not (rx : BitVec 3) (ry : BitVec 3) : Statement (.not rx ry) := half _ _ rfl rfl
theorem or (rx : BitVec 3) (ry : BitVec 3) : Statement (.or rx ry) := half _ _ rfl rfl
theorem seb (rx : BitVec 3) : Statement (.seb rx) := half _ _ rfl rfl
theorem seh (rx : BitVec 3) : Statement (.seh rx) := half _ _ rfl rfl
theorem slti (rx : BitVec 3) (imm : BitVec 16) : Statement (.slti rx imm) := pair _ _ _ rfl rfl
theorem sltiu (rx : BitVec 3) (imm : BitVec 16) : Statement (.sltiu rx imm) := pair _ _ _ rfl rfl
theorem slt (rx : BitVec 3) (ry : BitVec 3) : Statement (.slt rx ry) := half _ _ rfl rfl
theorem sltu (rx : BitVec 3) (ry : BitVec 3) : Statement (.sltu rx ry) := half _ _ rfl rfl
theorem xor (rx : BitVec 3) (ry : BitVec 3) : Statement (.xor rx ry) := half _ _ rfl rfl
theorem zeb (rx : BitVec 3) : Statement (.zeb rx) := half _ _ rfl rfl
theorem zeh (rx : BitVec 3) : Statement (.zeh rx) := half _ _ rfl rfl
theorem asmacro (select : BitVec 3) (p0 : BitVec 5) (p1 : BitVec 3) (p2 : BitVec 3) (p3 : BitVec 5) (p4 : BitVec 3) : Statement (.asmacro select p0 p1 p2 p3 p4) := pair _ _ _ rfl rfl
theorem brk (code : BitVec 6) : Statement (.brk code) := half _ _ rfl rfl
theorem sdbbp (code : BitVec 6) : Statement (.sdbbp code) := half _ _ rfl rfl
theorem beqz (rx : BitVec 3) (off : BitVec 16) : Statement (.beqz rx off) := pair _ _ _ rfl rfl
theorem bnez (rx : BitVec 3) (off : BitVec 16) : Statement (.bnez rx off) := pair _ _ _ rfl rfl
theorem b (off : BitVec 16) : Statement (.b off) := pair _ _ _ rfl rfl
theorem bteqz (off : BitVec 16) : Statement (.bteqz off) := pair _ _ _ rfl rfl
theorem btnez (off : BitVec 16) : Statement (.btnez off) := pair _ _ _ rfl rfl
theorem jalrc (rx : BitVec 3) : Statement (.jalrc rx) := half _ _ rfl rfl
theorem jalr (rx : BitVec 3) : Statement (.jalr rx) := half _ _ rfl rfl
theorem jal (target : BitVec 26) : Statement (.jal target) := pair _ _ _ rfl rfl
theorem jalx (index : BitVec 26) : Statement (.jalx index) := word _ _ rfl rfl
theorem jrcRa : Statement .jrcRa := half _ _ rfl rfl
theorem jrcRx (rx : BitVec 3) : Statement (.jrcRx rx) := half _ _ rfl rfl
theorem jrRa : Statement .jrRa := half _ _ rfl rfl
theorem jrRx (rx : BitVec 3) : Statement (.jrRx rx) := half _ _ rfl rfl
theorem jalx16 (target : BitVec 26) : Statement (.jalx16 target) := pair _ _ _ rfl rfl
theorem div (rx : BitVec 3) (ry : BitVec 3) : Statement (.div rx ry) := half _ _ rfl rfl
theorem divu (rx : BitVec 3) (ry : BitVec 3) : Statement (.divu rx ry) := half _ _ rfl rfl
theorem mfhi (rx : BitVec 3) : Statement (.mfhi rx) := half _ _ rfl rfl
theorem mflo (rx : BitVec 3) : Statement (.mflo rx) := half _ _ rfl rfl
theorem mult (rx : BitVec 3) (ry : BitVec 3) : Statement (.mult rx ry) := half _ _ rfl rfl
theorem multu (rx : BitVec 3) (ry : BitVec 3) : Statement (.multu rx ry) := half _ _ rfl rfl
theorem lb (ry : BitVec 3) (off : BitVec 16) (rx : BitVec 3) : Statement (.lb ry off rx) := pair _ _ _ rfl rfl
theorem lbu (ry : BitVec 3) (off : BitVec 16) (rx : BitVec 3) : Statement (.lbu ry off rx) := pair _ _ _ rfl rfl
theorem lh (ry : BitVec 3) (off : BitVec 16) (rx : BitVec 3) : Statement (.lh ry off rx) := pair _ _ _ rfl rfl
theorem lhu (ry : BitVec 3) (off : BitVec 16) (rx : BitVec 3) : Statement (.lhu ry off rx) := pair _ _ _ rfl rfl
theorem lwRxPc (rx : BitVec 3) (off : BitVec 16) : Statement (.lwRxPc rx off) := pair _ _ _ rfl rfl
theorem lwRxSp (rx : BitVec 3) (off : BitVec 16) : Statement (.lwRxSp rx off) := pair _ _ _ rfl rfl
theorem lwRyRx (ry : BitVec 3) (off : BitVec 16) (rx : BitVec 3) : Statement (.lwRyRx ry off rx) := pair _ _ _ rfl rfl
theorem sb (ry : BitVec 3) (off : BitVec 16) (rx : BitVec 3) : Statement (.sb ry off rx) := pair _ _ _ rfl rfl
theorem sh (ry : BitVec 3) (off : BitVec 16) (rx : BitVec 3) : Statement (.sh ry off rx) := pair _ _ _ rfl rfl
theorem swRaSp (off : BitVec 16) : Statement (.swRaSp off) := pair _ _ _ rfl rfl
theorem swRxSp (rx : BitVec 3) (off : BitVec 16) : Statement (.swRxSp rx off) := pair _ _ _ rfl rfl
theorem swRyRx (ry : BitVec 3) (off : BitVec 16) (rx : BitVec 3) : Statement (.swRyRx ry off rx) := pair _ _ _ rfl rfl
theorem restore (ra : Bool) (s0 : Bool) (s1 : Bool) (framesize : BitVec 4) : Statement (.restore ra s0 s1 framesize) := half _ _ rfl rfl
theorem restoreExt (ra : Bool) (s0 : Bool) (s1 : Bool) (xsregs : BitVec 3) (aregs : BitVec 4) (framesize : BitVec 8) : Statement (.restoreExt ra s0 s1 xsregs aregs framesize) := pair _ _ _ rfl rfl
theorem save (ra : Bool) (s0 : Bool) (s1 : Bool) (framesize : BitVec 4) : Statement (.save ra s0 s1 framesize) := half _ _ rfl rfl
theorem saveExt (ra : Bool) (s0 : Bool) (s1 : Bool) (xsregs : BitVec 3) (aregs : BitVec 4) (framesize : BitVec 8) : Statement (.saveExt ra s0 s1 xsregs aregs framesize) := pair _ _ _ rfl rfl
theorem sll (rx : BitVec 3) (ry : BitVec 3) (sa : BitVec 5) : Statement (.sll rx ry sa) := pair _ _ _ rfl rfl
theorem sllv (ry : BitVec 3) (rx : BitVec 3) : Statement (.sllv ry rx) := half _ _ rfl rfl
theorem sra (rx : BitVec 3) (ry : BitVec 3) (sa : BitVec 5) : Statement (.sra rx ry sa) := pair _ _ _ rfl rfl
theorem srav (ry : BitVec 3) (rx : BitVec 3) : Statement (.srav ry rx) := half _ _ rfl rfl
theorem srl (rx : BitVec 3) (ry : BitVec 3) (sa : BitVec 5) : Statement (.srl rx ry sa) := pair _ _ _ rfl rfl
theorem srlv (ry : BitVec 3) (rx : BitVec 3) : Statement (.srlv ry rx) := half _ _ rfl rfl

end Sys2Proof.Laws.EncodedLength
end

