-- ==== Sys2Proof/Tests/Slice0.lean ====
section
/-! SUPPORT. The model's own tests: the refusal of ill-formed terms, words decoded, one step of each instruction with
the values of 95_test_vectors, and for each statement with hypotheses a state and operands that meet them. -/

namespace Sys2Proof.Tests

open Sys2Proof Sys2Proof.Machine

/-! ## Helpers -/

/-- A small state: the byte order, pc, some registers, some bytes of memory. -/
def start (be : Bool) (pc : Word) (regs : List (Gpr × Word)) (bytes : List Host.Cell) : State :=
  regs.foldl (fun s rv => s.writeGpr rv.1 rv.2)
    { State.reset with pc := pc, mem := bytes, cfg := { Cfg.launch with bigEndian := be } }

/-- The state after one step that runs the instruction of a table word. -/
def after (s : State) (nbits w : Nat) : Option State :=
  match step (s.withFetchWord nbits w) with
  | .next t => some t
  | _ => none

/-- The fault of one step that runs the instruction of a table word. -/
def faultOf (s : State) (nbits w : Nat) : Option Fault :=
  match step (s.withFetchWord nbits w) with
  | .fault f => some f
  | _ => none

/-- The address, kind and state left of a SAVE or RESTORE that one step runs and that is stopped at a transfer. -/
def leftBy (s : State) (nbits w : Nat) : Option (Word × AccessKind × State) :=
  match faultOf s nbits w with
  | some (.unmappedTransfer a k t) => some (a, k, t)
  | _ => none

/-- The refusal of one step that runs the instruction of a table word. -/
def refusalBy (s : State) (nbits w : Nat) : Option Refusal :=
  match step (s.withFetchWord nbits w) with
  | .refused r => some r
  | _ => none

/-- A memory map of one read-only page of program and one writable page of data. -/
def twoPages : List Region := [⟨0x00400000, 256, false⟩, ⟨0x7FFFEF00, 256, true⟩]

/-- A state in which a jump through GPR 2 to 0x00400040 is pending. -/
def inSlot (regs : List (Gpr × Word)) : State :=
  { start false 0x00400002 ((2, 0x00400041) :: regs) [] with delay := some ⟨0x00400040, true, some 2⟩ }

/-! ## WellFormed: the one check there is (41_logical_move_compare R146, 30_encoding R92) -/

theorem test_nop_term_is_ill_formed : Instr.wellFormed .nop = false := by decide
theorem test_move_to_zero_is_well_formed : Instr.wellFormed (.moveR32Rz 0 0) = true := by decide

/-! ## Decoding: words written out from the figures of 30_encoding R83 to R98 -/

theorem test_decode_add_sub :
    decode (.pair 0b11110_111111_11111#16 0b01001_010_000_11111#16) = .ok (.addiuRxImm 2 0xFFFF) ∧
    decode (.pair 0b11110_000000_00000#16 0b00001_011_000_10000#16) = .ok (.addiuRxPcImm 3 16) ∧
    decode (.pair 0b11110_000000_00000#16 0b00000_100_000_01000#16) = .ok (.addiuRxSpImm 4 8) ∧
    decode (.pair 0b11110_0000000_1000#16 0b01000_010_011_0_0000#16) = .ok (.addiuRyRxImm 3 2 0x4000) ∧
    decode (.pair 0b11110_111111_11111#16 0b01100_011_000_00000#16) = .ok (.addiuSpImm 0xFFE0) ∧
    decode (.half 0b11100_011_100_010_01#16) = .ok (.addu 2 3 4) ∧
    decode (.half 0b11101_010_011_01011#16) = .ok (.neg 2 3) ∧
    decode (.half 0b11100_011_100_010_11#16) = .ok (.subu 2 3 4) := by decide

theorem test_decode_logical :
    decode (.half 0b11101_010_011_01100#16) = .ok (.and 2 3) ∧
    decode (.pair 0b11110_010001_00010#16 0b01110_011_000_10100#16) = .ok (.cmpi 3 0x1234) ∧
    decode (.half 0b11101_010_011_01010#16) = .ok (.cmp 2 3) ∧
    decode (.pair 0b11110_010001_00010#16 0b01101_010_000_10100#16) = .ok (.li 2 0x1234) ∧
    decode (.half 0b01100_101_000_11_010#16) = .ok (.moveR32Rz 24 2) ∧
    decode (.half 0b01100_101_101_11_001#16) = .ok (.moveR32Rz 29 1) ∧
    decode (.half 0b01100_111_010_11000#16) = .ok (.moveRyR32 2 24) ∧
    decode (.half 0b01100_101_000_00_000#16) = .ok (.moveR32Rz 0 0) ∧
    decode (.half 0b11101_010_011_01111#16) = .ok (.not 2 3) ∧
    decode (.half 0b11101_010_011_01101#16) = .ok (.or 2 3) ∧
    decode (.half 0b11101_010_100_10001#16) = .ok (.seb 2) ∧
    decode (.half 0b11101_001_101_10001#16) = .ok (.seh 1) ∧
    decode (.pair 0b11110_000011_00000#16 0b01010_011_000_00100#16) = .ok (.slti 3 100) ∧
    decode (.pair 0b11110_000000_00000#16 0b01011_100_000_00001#16) = .ok (.sltiu 4 1) ∧
    decode (.half 0b11101_010_011_00010#16) = .ok (.slt 2 3) ∧
    decode (.half 0b11101_010_011_00011#16) = .ok (.sltu 2 3) ∧
    decode (.half 0b11101_010_011_01110#16) = .ok (.xor 2 3) ∧
    decode (.half 0b11101_010_000_10001#16) = .ok (.zeb 2) ∧
    decode (.half 0b11101_111_001_10001#16) = .ok (.zeh 7) := by decide

theorem test_decode_system :
    decode (.pair 0b11110_011_110_10001#16 0b11100_101_010_11111#16) = .ok (.asmacro 3 31 2 5 17 6) ∧
    decode (.half 0b11101_000111_00101#16) = .ok (.brk 7) ∧
    decode (.half 0b11101_000101_00001#16) = .ok (.sdbbp 5) := by decide

theorem test_decode_branch :
    decode (.pair 0b11110_111111_11111#16 0b00100_010_000_11110#16) = .ok (.beqz 2 0xFFFE) ∧
    decode (.pair 0b11110_111111_01111#16 0b00101_001_000_11111#16) = .ok (.bnez 1 0x7FFF) ∧
    decode (.pair 0b11110_000000_10000#16 0b00010_000000_00000#16) = .ok (.b 0x8000) ∧
    decode (.pair 0b11110_000000_00000#16 0b01100_000_000_00010#16) = .ok (.bteqz 2) ∧
    decode (.pair 0b11110_111111_11111#16 0b01100_001_000_11100#16) = .ok (.btnez 0xFFFC) := by decide

theorem test_decode_jump :
    decode (.half 0b11101_010_1_1_0_00000#16) = .ok (.jalrc 2) ∧
    decode (.half 0b11101_011_0_1_0_00000#16) = .ok (.jalr 3) ∧
    decode (.pair 0b00011_0_10000_00000#16 0b0000010000000000#16) = .ok (.jal 0x100400) ∧
    decode (.mips32 0b011101_00000100000000010000000000#32) = .ok (.jalx 0x100400) ∧
    decode (.half 0b11101_000_1_0_1_00000#16) = .ok .jrcRa ∧
    decode (.half 0b11101_010_1_0_0_00000#16) = .ok (.jrcRx 2) ∧
    decode (.half 0b11101_000_0_0_1_00000#16) = .ok .jrRa ∧
    decode (.half 0b11101_111_0_0_0_00000#16) = .ok (.jrRx 7) ∧
    decode (.pair 0b00011_1_10000_00000#16 0b0000010000000000#16) = .ok (.jalx16 0x100400) := by decide

theorem test_decode_muldiv :
    decode (.half 0b11101_010_011_11010#16) = .ok (.div 2 3) ∧
    decode (.half 0b11101_010_011_11011#16) = .ok (.divu 2 3) ∧
    decode (.half 0b11101_010_000_10000#16) = .ok (.mfhi 2) ∧
    decode (.half 0b11101_011_000_10010#16) = .ok (.mflo 3) ∧
    decode (.half 0b11101_010_011_11000#16) = .ok (.mult 2 3) ∧
    decode (.half 0b11101_100_101_11001#16) = .ok (.multu 4 5) := by decide

theorem test_decode_load_store :
    decode (.pair 0b11110_111111_11111#16 0b10000_011_010_11111#16) = .ok (.lb 2 0xFFFF 3) ∧
    decode (.pair 0b11110_000000_00000#16 0b10100_011_010_00011#16) = .ok (.lbu 2 3 3) ∧
    decode (.pair 0b11110_000000_00000#16 0b10001_011_010_00010#16) = .ok (.lh 2 2 3) ∧
    decode (.pair 0b11110_000000_00000#16 0b10101_011_010_00010#16) = .ok (.lhu 2 2 3) ∧
    decode (.pair 0b11110_000000_00000#16 0b10110_010_000_01000#16) = .ok (.lwRxPc 2 8) ∧
    decode (.pair 0b11110_111111_01111#16 0b10010_001_000_11100#16) = .ok (.lwRxSp 1 32764) ∧
    decode (.pair 0b11110_000000_00000#16 0b10011_001_100_01000#16) = .ok (.lwRyRx 4 8 1) ∧
    decode (.pair 0b11110_000000_00000#16 0b11000_011_010_00001#16) = .ok (.sb 2 1 3) ∧
    decode (.pair 0b11110_000000_00000#16 0b11001_011_010_00010#16) = .ok (.sh 2 2 3) ∧
    decode (.pair 0b11110_000000_00000#16 0b01100_010_000_11100#16) = .ok (.swRaSp 28) ∧
    decode (.pair 0b11110_000000_00000#16 0b11010_010_000_00100#16) = .ok (.swRxSp 2 4) ∧
    decode (.pair 0b11110_111111_11111#16 0b11011_000_001_11000#16) = .ok (.swRyRx 1 0xFFF8 0) := by decide

theorem test_decode_save_restore :
    decode (.half 0b01100_100_0_1_1_1_0100#16) = .ok (.restore true true true 4) ∧
    decode (.half 0b01100_100_0_0_1_0_0010#16) = .ok (.restore false true false 2) ∧
    decode (.pair 0b11110_010_0000_0101#16 0b01100_100_0_1_1_1_0110#16) = .ok (.restoreExt true true true 2 5 6) ∧
    decode (.half 0b01100_100_1_1_0_0_0000#16) = .ok (.save true false false 0) ∧
    decode (.pair 0b11110_111_0010_1110#16 0b01100_100_1_1_1_1_0000#16) = .ok (.saveExt true true true 7 14 32) := by decide

theorem test_decode_shift :
    decode (.pair 0b11110_11111_000000#16 0b00110_000_001_000_00#16) = .ok (.sll 0 1 31) ∧
    decode (.half 0b11101_011_010_00100#16) = .ok (.sllv 2 3) ∧
    decode (.pair 0b11110_10000_000000#16 0b00110_111_110_000_11#16) = .ok (.sra 7 6 16) ∧
    decode (.half 0b11101_000_001_00111#16) = .ok (.srav 1 0) ∧
    decode (.pair 0b11110_00100_000000#16 0b00110_010_011_000_10#16) = .ok (.srl 2 3 4) ∧
    decode (.half 0b11101_011_010_00110#16) = .ok (.srlv 2 3) := by decide

/-- A byte at a time, in both orders (30_encoding R82): the left halfword of the figure first. -/
theorem test_decode_bytes :
    decodeBytes false true [0xFF, 0xF7, 0x1F, 0x4A] = .ok (.addiuRxImm 2 0xFFFF, []) ∧
    decodeBytes true true [0xF7, 0xFF, 0x4A, 0x1F] = .ok (.addiuRxImm 2 0xFFFF, []) ∧
    decodeBytes false true [0x89, 0xE3, 0x00] = .ok (.addu 2 3 4, [0x00]) := by decide
theorem test_decode_short : decodeBytes false true [0xFF, 0xF7, 0x1F] = .error .truncated := by decide
/-- Numbered as the opcode table numbers them. -/
theorem test_decode_table_word :
    decodeTableWord 32 0xF7FF4A1F = some (.addiuRxImm 2 0xFFFF) ∧ decodeTableWord 16 0xE389 = some (.addu 2 3 4) ∧
    decodeTableWord 32 0x74100400 = some (.jalx 0x100400) ∧ decodeTableWord 16 0x4A01 = none := by decide

/-! ## One step (95_test_vectors part 2; the name says the vector) -/

/-- ADDIU $4, -32768 -/
theorem test_addiu_V3 : (after (start false 0x00400000 [(4, 0x00008000)] []) 32 0xf0104c00).map (fun t => (t.readGpr 4, t.pc)) =
    some (0x00000000, 0x00400004) := by decide
/-- ADDIU $3, pc, 16 -/
theorem test_addiu_V5 : (after (start false 0x00001002 [] []) 32 0xf0000b10).map (fun t => (t.readGpr 3, t.pc)) =
    some (0x00001010, 0x00001006) := by decide
/-- ADDIU $2, sp, -8 -/
theorem test_addiu_V7 : (after (start false 0x00400000 [(29, 0x7FFFF000)] []) 32 0xf7ff0218).map (fun t => (t.readGpr 2, t.pc)) =
    some (0x7FFFEFF8, 0x00400004) := by decide
/-- ADDIU $3, $2, 16383 -/
theorem test_addiu_V10 : (after (start false 0x00400000 [(2, 0xFFFFC001)] []) 32 0xf7f7426f).map (fun t => (t.readGpr 3, t.pc)) =
    some (0x00000000, 0x00400004) := by decide
/-- ADDIU sp, 32767 -/
theorem test_addiu_V12 : (after (start false 0x00400000 [(29, 0xFFFF8001)] []) 32 0xf7ef631f).map (fun t => (t.readGpr 29, t.pc)) =
    some (0x00000000, 0x00400004) := by decide
/-- ADDU $2, $3, $4 -/
theorem test_addu_V13 : (after (start false 0x00400000 [(3, 0xFFFFFFFF), (4, 0x00000001)] []) 16 0xe389).map (fun t => (t.readGpr 2, t.pc)) =
    some (0x00000000, 0x00400002) := by decide
/-- NEG $2, $3 -/
theorem test_neg_V15 : (after (start false 0x00400000 [(3, 0x00000001)] []) 16 0xea6b).map (fun t => (t.readGpr 2, t.pc)) =
    some (0xFFFFFFFF, 0x00400002) := by decide
/-- SUBU $16, $17, $7 -/
theorem test_subu_V18 : (after (start false 0x00400000 [(7, 0x00000001), (17, 0x80000000)] []) 16 0xe1e3).map (fun t => (t.readGpr 16, t.pc)) =
    some (0x7FFFFFFF, 0x00400002) := by decide
/-- AND $2, $3 -/
theorem test_and_V19 : (after (start false 0x00400000 [(2, 0xFF00FF00), (3, 0x0FF00FF0)] []) 16 0xea6c).map (fun t => (t.readGpr 2, t.pc)) =
    some (0x0F000F00, 0x00400002) := by decide
/-- CMPI $2, 65535 -/
theorem test_cmpi_V21 : (after (start false 0x00400000 [(2, 0xFFFFFFFF)] []) 32 0xf7ff721f).map (fun t => (t.readGpr 24, t.pc)) =
    some (0xFFFF0000, 0x00400004) := by decide
/-- CMP $2, $3 -/
theorem test_cmp_V22 : (after (start false 0x00400000 [(2, 0x12345678), (3, 0x12345678)] []) 16 0xea6a).map (fun t => (t.readGpr 24, t.pc)) =
    some (0x00000000, 0x00400002) := by decide
/-- LI $2, 65535 -/
theorem test_li_V24 : (after (start false 0x00400000 [] []) 32 0xf7ff6a1f).map (fun t => (t.readGpr 2, t.pc)) =
    some (0x0000FFFF, 0x00400004) := by decide
/-- MOVE $24, $2 -/
theorem test_move_V26 : (after (start false 0x00400000 [(2, 0xCAFEF00D)] []) 16 0x651a).map (fun t => (t.readGpr 24, t.pc)) =
    some (0xCAFEF00D, 0x00400002) := by decide
/-- MOVE $29, $17 -/
theorem test_move_V27 : (after (start false 0x00400000 [(17, 0x7FFFF000)] []) 16 0x65b9).map (fun t => (t.readGpr 29, t.pc)) =
    some (0x7FFFF000, 0x00400002) := by decide
/-- MOVE $3, $0 -/
theorem test_move_V29 : (after (start false 0x00400000 [(3, 0x55555555)] []) 16 0x6760).map (fun t => (t.readGpr 3, t.pc)) =
    some (0x00000000, 0x00400002) := by decide
/-- NOP -/
theorem test_nop_V30 : (after (start false 0x00400000 [] []) 16 0x6500).map (fun t => (t.pc)) =
    some (0x00400002) := by decide
/-- NOT $2, $3 -/
theorem test_not_V31 : (after (start false 0x00400000 [(3, 0x00000000)] []) 16 0xea6f).map (fun t => (t.readGpr 2, t.pc)) =
    some (0xFFFFFFFF, 0x00400002) := by decide
/-- OR $2, $3 -/
theorem test_or_V32 : (after (start false 0x00400000 [(2, 0xFF00FF00), (3, 0x0FF00FF0)] []) 16 0xea6d).map (fun t => (t.readGpr 2, t.pc)) =
    some (0xFFF0FFF0, 0x00400002) := by decide
/-- SEB $2 -/
theorem test_seb_V33 : (after (start false 0x00400000 [(2, 0x12345680)] []) 16 0xea91).map (fun t => (t.readGpr 2, t.pc)) =
    some (0xFFFFFF80, 0x00400002) := by decide
/-- SEH $3 -/
theorem test_seh_V35 : (after (start false 0x00400000 [(3, 0x12348000)] []) 16 0xebb1).map (fun t => (t.readGpr 3, t.pc)) =
    some (0xFFFF8000, 0x00400002) := by decide
/-- SLTI $2, -1 -/
theorem test_slti_V36 : (after (start false 0x00400000 [(2, 0xFFFFFFFE)] []) 32 0xf7ff521f).map (fun t => (t.readGpr 24, t.pc)) =
    some (0x00000001, 0x00400004) := by decide
/-- SLTIU $2, -1 -/
theorem test_sltiu_V39 : (after (start false 0x00400000 [(2, 0xFFFFFFFF)] []) 32 0xf7ff5a1f).map (fun t => (t.readGpr 24, t.pc)) =
    some (0x00000000, 0x00400004) := by decide
/-- SLT $2, $3 -/
theorem test_slt_V42 : (after (start false 0x00400000 [(2, 0x7FFFFFFF), (3, 0x80000000)] []) 16 0xea62).map (fun t => (t.readGpr 24, t.pc)) =
    some (0x00000000, 0x00400002) := by decide
/-- SLTU $2, $3 -/
theorem test_sltu_V43 : (after (start false 0x00400000 [(2, 0xFFFFFFFF), (3, 0x00000001)] []) 16 0xea63).map (fun t => (t.readGpr 24, t.pc)) =
    some (0x00000000, 0x00400002) := by decide
/-- XOR $2, $3 -/
theorem test_xor_V45 : (after (start false 0x00400000 [(2, 0xFF00FF00), (3, 0x0FF00FF0)] []) 16 0xea6e).map (fun t => (t.readGpr 2, t.pc)) =
    some (0xF0F0F0F0, 0x00400002) := by decide
/-- ZEB $2 -/
theorem test_zeb_V47 : (after (start false 0x00400000 [(2, 0xFFFFFFFF)] []) 16 0xea11).map (fun t => (t.readGpr 2, t.pc)) =
    some (0x000000FF, 0x00400002) := by decide
/-- ZEH $2 -/
theorem test_zeh_V48 : (after (start false 0x00400000 [(2, 0xFFFFFFFF)] []) 16 0xea31).map (fun t => (t.readGpr 2, t.pc)) =
    some (0x0000FFFF, 0x00400002) := by decide
/-- ASMACRO 3,31,2,5,17,6 -/
theorem test_asmacro_V49 : (after (start false 0x00400000 [] []) 32 0xf3d1e55f).map (fun t => (t.exc, t.pc)) =
    some (some ⟨.reservedInstruction, 0x00400000, false, none⟩, 0x00400000) := by decide
/-- BREAK 63 -/
theorem test_break_V52 : (after (start false 0x00400000 [] []) 16 0xefe5).map (fun t => (t.exc, t.pc)) =
    some (some ⟨.breakpoint, 0x00400000, false, none⟩, 0x00400000) := by decide
/-- SDBBP 0 -/
theorem test_sdbbp_V53 : (after (start false 0x00400000 [] []) 16 0xe801).map (fun t => (t.exc, t.pc)) =
    some (some ⟨.debugBreakpoint, 0x00400000, false, none⟩, 0x00400000) := by decide
/-- BEQZ $2, off16 = 3 -/
theorem test_beqz_V55 : (after (start false 0x00001000 [(2, 0x00000000)] []) 32 0xf0002203).map (fun t => (t.pc)) =
    some (0x0000100A) := by decide
/-- BEQZ $2, off16 = 3 -/
theorem test_beqz_V56 : (after (start false 0x00001000 [(2, 0x00000001)] []) 32 0xf0002203).map (fun t => (t.pc)) =
    some (0x00001004) := by decide
/-- BNEZ $3, off16 = -3 -/
theorem test_bnez_V57 : (after (start false 0x00001006 [(3, 0x00000005)] []) 32 0xf7ff2b1d).map (fun t => (t.pc)) =
    some (0x00001004) := by decide
/-- B off16 = -32768 -/
theorem test_b_V58 : (after (start false 0x00020000 [] []) 32 0xf0101000).map (fun t => (t.pc)) =
    some (0x00010004) := by decide
/-- BTEQZ off16 = 4 -/
theorem test_bteqz_V60 : (after (start false 0x00001000 [(24, 0x00000000)] []) 32 0xf0006004).map (fun t => (t.pc)) =
    some (0x0000100C) := by decide
/-- BTEQZ off16 = 4 -/
theorem test_bteqz_V61 : (after (start false 0x00001000 [(24, 0x80000000)] []) 32 0xf0006004).map (fun t => (t.pc)) =
    some (0x00001004) := by decide
/-- BTNEZ off16 = -2 -/
theorem test_btnez_V62 : (after (start false 0x00001000 [(24, 0x00000001)] []) 32 0xf7ff611e).map (fun t => (t.pc)) =
    some (0x00001000) := by decide
/-- JALRC ra, $2 -/
theorem test_jalrc_V63 : (after (start false 0x00001000 [(2, 0x00002001)] []) 16 0xeac0).map (fun t => (t.readGpr 31, t.pc)) =
    some (0x00001003, 0x00002000) := by decide
/-- JALR ra, $2 -/
theorem test_jalr_V64 : (after (start false 0x00001000 [(2, 0x00002001)] []) 16 0xea40).map (fun t => (t.readGpr 31, t.delay, t.pc)) =
    some (0x00001005, some ⟨0x00002000, true, some 2⟩, 0x00001002) := by decide
/-- JAL 0x00000000 -/
theorem test_jal_V66 : (after (start false 0x0FFFFFFC [] []) 32 0x18000000).map (fun t => (t.readGpr 31, t.delay, t.pc)) =
    some (0x10000003, some ⟨0x10000000, true, none⟩, 0x10000000) := by decide
/-- JRC ra -/
theorem test_jrc_V67 : (after (start false 0x00402000 [(31, 0x00400107)] []) 16 0xe8a0).map (fun t => (t.pc)) =
    some (0x00400106) := by decide
/-- JRC $3 -/
theorem test_jrc_V69 : (after (start false 0x00001000 [(3, 0x00003002)] []) 16 0xeb80).map (fun t => (t.isaMode, t.pc)) =
    some (false, 0x00003002) := by decide
/-- JR ra -/
theorem test_jr_V70 : (after (start false 0x00402000 [(31, 0x00400107)] []) 16 0xe820).map (fun t => (t.delay, t.pc)) =
    some (some ⟨0x00400106, true, some 31⟩, 0x00402002) := by decide
/-- JR $2 -/
theorem test_jr_V71 : (after (start false 0x00001000 [(2, 0x00002001)] []) 16 0xea00).map (fun t => (t.delay, t.pc)) =
    some (some ⟨0x00002000, true, some 2⟩, 0x00001002) := by decide
/-- DIV $2, $3 -/
theorem test_div_V72 : (after (start false 0x00400000 [(2, 0xFFFFFFF9), (3, 0x00000002)] []) 16 0xea7a).map (fun t => (t.hi, t.lo, t.pc)) =
    some (0xFFFFFFFF, 0xFFFFFFFD, 0x00400002) := by decide
/-- DIV $2, $3 -/
theorem test_div_V76 : (after (start false 0x00400000 [(2, 0x80000000), (3, 0xFFFFFFFF)] []) 16 0xea7a).map (fun t => (t.draws, t.draws, t.pc)) =
    some (2, 2, 0x00400002) := by decide
/-- DIVU $2, $3 -/
theorem test_divu_V77 : (after (start false 0x00400000 [(2, 0xFFFFFFF9), (3, 0x00000002)] []) 16 0xea7b).map (fun t => (t.hi, t.lo, t.pc)) =
    some (0x00000001, 0x7FFFFFFC, 0x00400002) := by decide
/-- DIVU $4, $5 -/
theorem test_divu_V78 : (after (start false 0x00400000 [(4, 0x00000007), (5, 0x00000000)] []) 16 0xecbb).map (fun t => (t.draws, t.draws, t.pc)) =
    some (2, 2, 0x00400002) := by decide
/-- MFHI $2 -/
theorem test_mfhi_V79 : (after { (start false 0x00400000 [] []) with hi := 0x11112222, lo := 0x33334444 } 16 0xea10).map (fun t => (t.readGpr 2, t.pc)) =
    some (0x11112222, 0x00400002) := by decide
/-- MFLO $3 -/
theorem test_mflo_V80 : (after { (start false 0x00400000 [] []) with hi := 0x11112222, lo := 0x33334444 } 16 0xeb12).map (fun t => (t.readGpr 3, t.pc)) =
    some (0x33334444, 0x00400002) := by decide
/-- MULT $2, $3 -/
theorem test_mult_V84 : (after (start false 0x00400000 [(2, 0x80000000), (3, 0x7FFFFFFF)] []) 16 0xea78).map (fun t => (t.hi, t.lo, t.pc)) =
    some (0xC0000000, 0x80000000, 0x00400002) := by decide
/-- MULTU $4, $5 -/
theorem test_multu_V85 : (after (start false 0x00400000 [(4, 0xFFFFFFFF), (5, 0xFFFFFFFF)] []) 16 0xecb9).map (fun t => (t.hi, t.lo, t.pc)) =
    some (0xFFFFFFFE, 0x00000001, 0x00400002) := by decide
/-- LB $2, 0($3) -/
theorem test_lb_V87 : (after (start false 0x00400000 [(3, 0x10000000)] [(0x10000000, 0x80), (0x10000001, 0x91), (0x10000002, 0xa2), (0x10000003, 0xb3)]) 32 0xf0008340).map (fun t => (t.readGpr 2, t.pc)) =
    some (0xFFFFFF80, 0x00400004) := by decide
/-- LB $2, 0($3) -/
theorem test_lb_V99 : (after (start true 0x00400000 [(3, 0x10000000)] [(0x10000000, 0x80), (0x10000001, 0x91), (0x10000002, 0xa2), (0x10000003, 0xb3)]) 32 0xf0008340).map (fun t => (t.readGpr 2, t.pc)) =
    some (0xFFFFFF80, 0x00400004) := by decide
/-- LBU $2, 3($3) -/
theorem test_lbu_V88 : (after (start false 0x00400000 [(3, 0x10000000)] [(0x10000000, 0x80), (0x10000001, 0x91), (0x10000002, 0xa2), (0x10000003, 0xb3)]) 32 0xf000a343).map (fun t => (t.readGpr 2, t.pc)) =
    some (0x000000B3, 0x00400004) := by decide
/-- LH $2, 0($3) -/
theorem test_lh_V89 : (after (start false 0x00400000 [(3, 0x10000000)] [(0x10000000, 0x80), (0x10000001, 0x91), (0x10000002, 0xa2), (0x10000003, 0xb3)]) 32 0xf0008b40).map (fun t => (t.readGpr 2, t.pc)) =
    some (0xFFFF9180, 0x00400004) := by decide
/-- LH $2, 0($3) -/
theorem test_lh_V101 : (after (start true 0x00400000 [(3, 0x10000000)] [(0x10000000, 0x80), (0x10000001, 0x91), (0x10000002, 0xa2), (0x10000003, 0xb3)]) 32 0xf0008b40).map (fun t => (t.readGpr 2, t.pc)) =
    some (0xFFFF8091, 0x00400004) := by decide
/-- LHU $2, 2($3) -/
theorem test_lhu_V102 : (after (start true 0x00400000 [(3, 0x10000000)] [(0x10000000, 0x80), (0x10000001, 0x91), (0x10000002, 0xa2), (0x10000003, 0xb3)]) 32 0xf000ab42).map (fun t => (t.readGpr 2, t.pc)) =
    some (0x0000A2B3, 0x00400004) := by decide
/-- LW $2, 0($3) -/
theorem test_lw_V91 : (after (start false 0x00400000 [(3, 0x10000000)] [(0x10000000, 0x80), (0x10000001, 0x91), (0x10000002, 0xa2), (0x10000003, 0xb3)]) 32 0xf0009b40).map (fun t => (t.readGpr 2, t.pc)) =
    some (0xB3A29180, 0x00400004) := by decide
/-- SW $2, 4($3) -/
theorem test_sw_V108 : (after (start true 0x00400000 [(2, 0x12345678), (3, 0x10000000)] []) 32 0xf000db44).map (fun t => (t.readWord 0x10000004, t.pc)) =
    some (0x12345678, 0x00400004) := by decide
/-- LW $2, 0(sp) -/
theorem test_lw_V93 : (after (start false 0x00400000 [(29, 0x10000000)] [(0x10000000, 0x80), (0x10000001, 0x91), (0x10000002, 0xa2), (0x10000003, 0xb3)]) 32 0xf0009200).map (fun t => (t.readGpr 2, t.pc)) =
    some (0xB3A29180, 0x00400004) := by decide
/-- LW $2, 0(sp) -/
theorem test_lw_V105 : (after (start true 0x00400000 [(29, 0x10000000)] [(0x10000000, 0x80), (0x10000001, 0x91), (0x10000002, 0xa2), (0x10000003, 0xb3)]) 32 0xf0009200).map (fun t => (t.readGpr 2, t.pc)) =
    some (0x8091A2B3, 0x00400004) := by decide
/-- LW $2, 16(pc) -/
theorem test_lw_V111 : (after (start false 0x00400002 [] [(0x400010, 0x80), (0x400011, 0x91), (0x400012, 0xa2), (0x400013, 0xb3)]) 32 0xf000b210).map (fun t => (t.readGpr 2, t.pc)) =
    some (0xB3A29180, 0x00400006) := by decide
/-- LW $2, 16(pc) -/
theorem test_lw_V112 : (after (start true 0x00400002 [] [(0x400010, 0x80), (0x400011, 0x91), (0x400012, 0xa2), (0x400013, 0xb3)]) 32 0xf000b210).map (fun t => (t.readGpr 2, t.pc)) =
    some (0x8091A2B3, 0x00400006) := by decide
/-- SB $2, 1($3) -/
theorem test_sb_V94 : (after (start false 0x00400000 [(2, 0x12345678), (3, 0x10000000)] []) 32 0xf000c341).map (fun t => (t.readByte 0x10000001, t.pc)) =
    some (0x78, 0x00400004) := by decide
/-- SH $2, 2($3) -/
theorem test_sh_V95 : (after (start false 0x00400000 [(2, 0x12345678), (3, 0x10000000)] []) 32 0xf000cb42).map (fun t => (t.readByte 0x10000002, t.readByte 0x10000003, t.pc)) =
    some (0x78, 0x56, 0x00400004) := by decide
/-- SH $2, 2($3) -/
theorem test_sh_V107 : (after (start true 0x00400000 [(2, 0x12345678), (3, 0x10000000)] []) 32 0xf000cb42).map (fun t => (t.readByte 0x10000002, t.readByte 0x10000003, t.pc)) =
    some (0x56, 0x78, 0x00400004) := by decide
/-- SW ra, 0(sp) -/
theorem test_sw_V110 : (after (start true 0x00400000 [(29, 0x10000000), (31, 0x00400107)] []) 32 0xf0006200).map (fun t => (t.readWord 0x10000000, t.pc)) =
    some (0x00400107, 0x00400004) := by decide
/-- SW $2, 4(sp) -/
theorem test_sw_V97 : (after (start false 0x00400000 [(2, 0x12345678), (29, 0x10000000)] []) 32 0xf000d204).map (fun t => (t.readWord 0x10000004, t.pc)) =
    some (0x12345678, 0x00400004) := by decide
/-- SW $2, 4($3) -/
theorem test_sw_V96 : (after (start false 0x00400000 [(2, 0x12345678), (3, 0x10000000)] []) 32 0xf000db44).map (fun t => (t.readWord 0x10000004, t.pc)) =
    some (0x12345678, 0x00400004) := by decide
/-- LH $2, 1($3) -/
theorem test_lh_V113 : (after (start false 0x00400000 [(3, 0x10000000)] [(0x10000000, 0x80), (0x10000001, 0x91), (0x10000002, 0xa2), (0x10000003, 0xb3)]) 32 0xf0008b41).map (fun t => (t.exc, t.pc)) =
    some (some ⟨.addressError, 0x00400000, false, some 0x10000001⟩, 0x00400000) := by decide
/-- SH $2, 3($3) -/
theorem test_sh_V115 : (after (start false 0x00400000 [(2, 0x00000001), (3, 0x10000000)] []) 32 0xf000cb43).map (fun t => (t.exc, t.pc)) =
    some (some ⟨.addressError, 0x00400000, false, some 0x10000003⟩, 0x00400000) := by decide
/-- LW $2, 2(pc) -/
theorem test_lw_V117 : (after (start false 0x00400000 [] [(0x400010, 0x80), (0x400011, 0x91), (0x400012, 0xa2), (0x400013, 0xb3)]) 32 0xf000b202).map (fun t => (t.exc, t.pc)) =
    some (some ⟨.addressError, 0x00400000, false, some 0x00400002⟩, 0x00400000) := by decide
/-- LW $2, 0($3) -/
theorem test_lw_V119 : (after (start false 0x00400000 [(3, 0xFFFFFFFE)] [(0x10000000, 0x80), (0x10000001, 0x91), (0x10000002, 0xa2), (0x10000003, 0xb3)]) 32 0xf0009b40).map (fun t => (t.exc, t.pc)) =
    some (some ⟨.addressError, 0x00400000, false, some 0xFFFFFFFE⟩, 0x00400000) := by decide
/-- SAVE ra, s0, s1, framesize 4 -/
theorem test_save_V120 : (after (start false 0x00400000 [(16, 0x22222222), (17, 0x11111111), (29, 0x7FFFF000), (31, 0x00400011)] []) 16 0x64f4).map (fun t => (t.readGpr 29, t.readWord 0x7fffeff4, t.readWord 0x7fffeff8, t.readWord 0x7fffeffc, t.pc)) =
    some (0x7FFFEFE0, 0x22222222, 0x11111111, 0x00400011, 0x00400002) := by decide
/-- RESTORE ra, s0, s1, framesize 4 -/
theorem test_restore_V121 : (after (start false 0x00400000 [(29, 0x7FFFEFE0)] [(0x7fffeff4, 0x22), (0x7fffeff5, 0x22), (0x7fffeff6, 0x22), (0x7fffeff7, 0x22), (0x7fffeff8, 0x11), (0x7fffeff9, 0x11), (0x7fffeffa, 0x11), (0x7fffeffb, 0x11), (0x7fffeffc, 0x11), (0x7fffeffe, 0x40)]) 16 0x6474).map (fun t => (t.readGpr 16, t.readGpr 17, t.readGpr 29, t.readGpr 31, t.pc)) =
    some (0x22222222, 0x11111111, 0x7FFFF000, 0x00400011, 0x00400002) := by decide
/-- SAVE framesize 0 (ra only) -/
theorem test_save_V122 : (after (start false 0x00400000 [(29, 0x7FFFF000), (31, 0x00400011)] []) 16 0x64c0).map (fun t => (t.readGpr 29, t.readWord 0x7fffeffc, t.pc)) =
    some (0x7FFFEF80, 0x00400011, 0x00400002) := by decide
/-- RESTORE framesize 0 (nothing restored) -/
theorem test_restore_V123 : (after (start false 0x00400000 [(29, 0x7FFFEF80)] []) 16 0x6400).map (fun t => (t.readGpr 29, t.pc)) =
    some (0x7FFFF000, 0x00400002) := by decide
/-- SAVE ra, s0, s1, xsregs 2, aregs 0101, framesize8 6 -/
theorem test_save_V124 : (after (start false 0x00400000 [(4, 0x04040404), (5, 0x05050505), (6, 0x06060606), (7, 0x07070707), (16, 0x16161616), (17, 0x17171717), (18, 0x18181818), (19, 0x19191919), (29, 0x7FFFF000), (31, 0x00400011)] []) 32 0xf20564f6).map (fun t => (t.readGpr 29, t.readWord 0x7fffefe8, t.readWord 0x7fffefec, t.readWord 0x7fffeff0, t.readWord 0x7fffeff4, t.readWord 0x7fffeff8, t.readWord 0x7fffeffc, t.readWord 0x7ffff000, t.pc)) =
    some (0x7FFFEFD0, 0x07070707, 0x16161616, 0x17171717, 0x18181818, 0x19191919, 0x00400011, 0x04040404, 0x00400004) := by decide
/-- RESTORE ra, s0, s1, xsregs 2, aregs 0101, framesize8 6 -/
theorem test_restore_V125 : (after (start false 0x00400000 [(29, 0x7FFFEFD0)] [(0x7fffefe8, 0x7), (0x7fffefe9, 0x7), (0x7fffefea, 0x7), (0x7fffefeb, 0x7), (0x7fffefec, 0x16), (0x7fffefed, 0x16), (0x7fffefee, 0x16), (0x7fffefef, 0x16), (0x7fffeff0, 0x17), (0x7fffeff1, 0x17), (0x7fffeff2, 0x17), (0x7fffeff3, 0x17), (0x7fffeff4, 0x18), (0x7fffeff5, 0x18), (0x7fffeff6, 0x18), (0x7fffeff7, 0x18), (0x7fffeff8, 0x19), (0x7fffeff9, 0x19), (0x7fffeffa, 0x19), (0x7fffeffb, 0x19), (0x7fffeffc, 0x11), (0x7fffeffe, 0x40)]) 32 0xf2056476).map (fun t => (t.readGpr 7, t.readGpr 16, t.readGpr 17, t.readGpr 18, t.readGpr 19, t.readGpr 29, t.readGpr 31, t.pc)) =
    some (0x07070707, 0x16161616, 0x17171717, 0x18181818, 0x19191919, 0x7FFFF000, 0x00400011, 0x00400004) := by decide
/-- SAVE aregs 1110, framesize8 2 -/
theorem test_save_V127 : (after (start false 0x00400000 [(4, 0x04040404), (5, 0x05050505), (6, 0x06060606), (7, 0x07070707), (29, 0x7FFFF000)] []) 32 0xf00e6482).map (fun t => (t.readGpr 29, t.readWord 0x7ffff000, t.readWord 0x7ffff004, t.readWord 0x7ffff008, t.readWord 0x7ffff00c, t.pc)) =
    some (0x7FFFEFF0, 0x04040404, 0x05050505, 0x06060606, 0x07070707, 0x00400004) := by decide
/-- SAVE ra, framesize 1 -/
theorem test_save_V129 : (after (start false 0x00400000 [(29, 0x7FFFF002), (31, 0x00400011)] []) 16 0x64c1).map (fun t => (t.exc, t.pc)) =
    some (some ⟨.addressError, 0x00400000, false, some 0x7FFFEFFE⟩, 0x00400000) := by decide
/-- SLL $16, $17, 31 -/
theorem test_sll_V133 : (after (start false 0x00400000 [(17, 0x00000003)] []) 32 0xf7c03020).map (fun t => (t.readGpr 16, t.pc)) =
    some (0x80000000, 0x00400004) := by decide
/-- SLLV $2, $3 -/
theorem test_sllv_V136 : (after (start false 0x00400000 [(2, 0x00000001), (3, 0x00000020)] []) 16 0xeb44).map (fun t => (t.pc)) =
    some (0x00400002) := by decide
/-- SRA $7, $6, 31 -/
theorem test_sra_V138 : (after (start false 0x00400000 [(6, 0x80000000)] []) 32 0xf7c037c3).map (fun t => (t.readGpr 7, t.pc)) =
    some (0xFFFFFFFF, 0x00400004) := by decide
/-- SRAV $2, $3 -/
theorem test_srav_V139 : (after (start false 0x00400000 [(2, 0x80000000), (3, 0x00000024)] []) 16 0xeb47).map (fun t => (t.readGpr 2, t.pc)) =
    some (0xF8000000, 0x00400002) := by decide
/-- SRL $4, $5, 31 -/
theorem test_srl_V141 : (after (start false 0x00400000 [(5, 0x80000000)] []) 32 0xf7c034a2).map (fun t => (t.readGpr 4, t.pc)) =
    some (0x00000001, 0x00400004) := by decide
/-- SRLV $2, $2 -/
theorem test_srlv_V143 : (after (start false 0x00400000 [(2, 0x80000004)] []) 16 0xea46).map (fun t => (t.readGpr 2, t.pc)) =
    some (0x08000000, 0x00400002) := by decide

/-! ## JALX, refusals and model faults (95_test_vectors V118, V128, V131 and part 3, P5) -/

/-- The example of 43_branch_jump R190. -/
theorem test_jalx : (after (start false 0x80000100 [] []) 32 0x74100400).map (fun t => (t.readGpr 31, t.pc, t.delay)) =
    some (0x80000108, 0x80000104, some ⟨0x80401000, true, none⟩) := by decide
/-- The example of 43_branch_jump R195. -/
theorem test_jalx16_refused : refusalBy (start false 0x00400000 [] []) 32 0x1E000400 = some .jalx16NotInSource := by decide
theorem test_unmapped_V118 : faultOf { start false 0x00400000 [(3, 0x10000000)] [] with
    cfg := ⟨false, [⟨0x00400000, 256, false⟩, ⟨0x10000000, 256, true⟩], []⟩ } 32 0xF7FF835F =
    some (.unmappedAccess 0x0FFFFFFF .load) := by decide
theorem test_reserved_aregs_V128 : faultOf (start false 0x00400000 [(29, 0x7FFFF000)] []) 32 0xF00F6481 =
    some (.unpredictable .reservedAregs) := by decide
/-- V131: the third store is not admitted; the first two stand and GPR 29 is as it was (46_save_restore R257). -/
theorem test_third_store_unmapped_V131 : (leftBy { start false 0x00400000 [(16, 0x16161616), (17, 0x17171717),
    (29, 0x7FFFEF08), (31, 0x00400011)] [] with cfg := ⟨false, twoPages, []⟩ } 16 0x64F2).map (fun (a, k, t) =>
      (a, k, (List.range 8).map fun j => t.readByte (0x7FFFEF00 + BitVec.ofNat 32 j), t.readGpr 29)) =
    some (0x7FFFEEFC, .store, [0x17, 0x17, 0x17, 0x17, 0x11, 0x00, 0x40, 0x00], 0x7FFFEF08) := by decide
/-- The same frame loaded, by hand from 46_save_restore R253 and R257: GPR 31 and 17 are loaded, 16 and 29 are not. -/
theorem test_third_load_unmapped : (leftBy { start false 0x00400000 [(16, 0x16161616), (29, 0x7FFFEEF8)]
    [(0x7FFFEF00, 0x17), (0x7FFFEF04, 0x11)] with cfg := ⟨false, twoPages, []⟩ } 16 0x6472).map (fun (a, k, t) =>
      (a, k, t.readGpr 31, t.readGpr 17, t.readGpr 16, t.readGpr 29)) =
    some (0x7FFFEEFC, .load, 0x11, 0x17, 0x16161616, 0x7FFFEEF8) := by decide
/-- P5a: BREAK in the slot of JALR; the link stays and the pending jump is discarded. -/
theorem test_break_in_slot_P5a :
    (after { inSlot [(31, 0x00400005)] with pc := 0x00400002 } 16 0xE8A5).map (fun t => (t.exc, t.delay, t.readGpr 31)) =
    some (some ⟨.breakpoint, 0x00400002, true, none⟩, none, 0x00400005) := by decide
theorem test_wide_in_slot_P5b : faultOf (inSlot []) 32 0xF0004B01 = some (.unpredictable .wideInDelaySlot) := by decide
theorem test_jump_in_slot : faultOf (inSlot []) 16 0xE8A0 = some (.unpredictable .jumpInDelaySlot) := by decide
theorem test_register_changed_P5c : faultOf (inSlot [(3, 5)]) 16 0xE269 = some (.unpredictable .jumpRegisterChanged) := by
  decide
/-- P5c's last sentence: with `x[3] = 0` the value is unchanged and the jump completes. -/
theorem test_register_kept_P5c : (after (inSlot []) 16 0xE269).map (fun t => (t.pc, t.isaMode, t.delay)) =
    some (0x00400040, true, none) := by decide
/-- P5d: a halfword the run has stored to is not fetched, though its value is what it was. -/
theorem test_fetch_of_written_P5d : (match step { start false 0x0040000C [] [(0x0040000D, 0x65)] with
    written := [0x0040000C, 0x0040000D] } with
    | .fault f => some f
    | _ => none) = some (.fetchOfWrittenMemory 0x0040000C) := by decide
theorem test_no_page_P5e : refusalBy (start false 0x00400000 [] []) 16 0x4A01 = some (.notInSource16 0x4A01) := by decide
/-- 42_system R172: in Debug Mode. -/
theorem test_sdbbp_in_debug_mode : (after { start false 0x00400000 [] [] with debugDM := true } 16 0xE801).map
    (fun t => (t.exc, t.debugDExcCode)) = some (some ⟨.debugModeBreakpoint, 0x00400000, false, none⟩, 0x9) := by decide
theorem test_asmacro_implemented : refusalBy { start false 0x00400000 [] [] with cfg := ⟨false, [⟨0, 4294967296, true⟩], [3]⟩ }
    32 0xF3D1E55F = some (.macroNotInSource 3) := by decide

/-! ## For each statement with hypotheses: states and operands that meet them

Each theorem is named after its statement; the values are at the ends of their ranges. -/

/-- The next state of an outcome. -/
def nextOf : Host.Outcome State Fault Refusal → Option State
  | .next t => some t
  | _ => none

/-- Whether an outcome is a next state of which `p` holds. -/
def goesOn (o : Host.Outcome State Fault Refusal) (p : State → Bool := fun _ => true) : Bool := (nextOf o).any p

/-- Whether an outcome is this fault. -/
def stops (o : Host.Outcome State Fault Refusal) (f : Fault) : Bool :=
  match o with
  | .fault g => g == f
  | _ => false

/-- A state whose memory map is `twoPages`. -/
def paged (pc : Word) (regs : List (Gpr × Word)) (bytes : List Host.Cell) : State :=
  { start false pc regs bytes with cfg := ⟨false, twoPages, []⟩ }

/-- A pending jump through GPR 2. -/
def pendingJump : Delay := ⟨0x00400040, true, some 2⟩

/-- `inSlot` with a halfword at the slot. -/
def slotWith (lo hi : Byte) (regs : List (Gpr × Word)) : State :=
  { inSlot regs with mem := [(0x00400002, lo), (0x00400003, hi)] }

theorem hyp_DecodeOfEncodeIsTheInstruction : Instr.WellFormed (.asmacro 7 31 7 7 31 7) := by decide
theorem hyp_EncodedBytesDecodeInEitherByteOrder :
    Instr.WellFormed (.jalx 0x3FFFFFF) ∧ Instr.WellFormed .jrcRa ∧ Instr.WellFormed (.jal 0x3FFFFFF) := by decide
theorem hyp_DecodedCodeIsEncodedBack :
    decode (.half 0x6500) = .ok (.moveR32Rz 0 0) ∧ decode (.pair 0x1BFF 0xFFFF) = .ok (.jal 0x3FFFFFF) ∧
    decode (.mips32 0x77FFFFFF) = .ok (.jalx 0x3FFFFFF) := by decide
theorem hyp_DecoderAgreesWithTheOpcodeTable :
    (Instr.WellFormed (.jrRx 0) ∧ selects (.half 0xEF00) (.jrRx 0)) ∧
    (Instr.WellFormed (.lb 0 0 0) ∧ selects (.pair 0xF7FF 0x87FF) (.lb 0 0 0)) ∧
    (Instr.WellFormed (.jalx 0) ∧ selects (.mips32 0x77FFFFFF) (.jalx 0)) := by
  simp only [selects]; decide
theorem hyp_EncodingsWithNoPageAreRejected :
    (Code.isWide 0x0000 = false ∧ Code.op 0x0000 ∉ [0b01100#5, 0b11100#5, 0b11101#5]) ∧
    (Code.isWide 0xFFFF = false ∧ Code.op 0xFFFF ∉ [0b01100#5, 0b11100#5, 0b11101#5]) ∧
    (Code.op 0x66FF = 0b01100#5 ∧ Code.rx 0x66FF ∈ [0b000#3, 0b001#3, 0b010#3, 0b011#3, 0b110#3]) ∧
    (Code.op 0xE7FE = 0b11100#5 ∧ (0xE7FE : Half).extractLsb' 0 2 ∈ [0b00#2, 0b10#2]) ∧
    (Code.op 0xEFFF = 0b11101#5 ∧ Code.f5 0xEFFF ∈ [0b01000#5, 0b01001#5, 0b10011#5, 0b10100#5, 0b10101#5, 0b10110#5,
      0b10111#5, 0b11100#5, 0b11101#5, 0b11110#5, 0b11111#5]) ∧
    (Code.op 0xEFF1 = 0b11101#5 ∧ Code.f5 0xEFF1 = 0b10001#5 ∧
      Code.ry 0xEFF1 ∈ [0b010#3, 0b011#3, 0b110#3, 0b111#3]) ∧
    (Code.op 0xEFE0 = 0b11101#5 ∧ Code.f5 0xEFE0 = 0b00000#5 ∧ (0xEFE0 : Half).getLsbD 6 = true ∧
      (0xEFE0 : Half).getLsbD 5 = true) ∧
    Code.op 0xF7FF = 0b11110#5 ∧
    Code.op 0xFFFF ∈ [0b00011#5, 0b00111#5, 0b01111#5, 0b10111#5, 0b11101#5, 0b11110#5, 0b11111#5] ∧
    (Code.op 0x65FF = 0b01100#5 ∧ Code.rx 0x65FF ∈ [0b101#3, 0b110#3, 0b111#3]) ∧
    (Code.op 0x37FD = 0b00110#5 ∧ (0x37FD : Half).extractLsb' 0 2 = 0b01#2) ∧
    (Code.op 0x4010 = 0b01000#5 ∧ (0x4010 : Half).getLsbD 4 = true) ∧
    (0xFFFFFFFF : Word).extractLsb' 26 6 ≠ 0b011101#6 := by decide
theorem hyp_NonzeroZeroFieldsAreRejected :
    (Code.op 0xE830 = 0b11101#5 ∧ Code.f5 0xE830 ∈ [0b10000#5, 0b10010#5] ∧ Code.ry 0xE830 ≠ 0) ∧
    (Code.op 0xE920 = 0b11101#5 ∧ Code.f5 0xE920 = 0b00000#5 ∧ (0xE920 : Half).getLsbD 5 = true ∧ Code.rx 0xE920 ≠ 0) ∧
    Code.op 0xF001 = 0b11110#5 ∧
    (Code.op 0xD7E0 ∈ [0b00000#5, 0b00001#5, 0b00100#5, 0b00101#5, 0b01001#5, 0b01010#5, 0b01011#5, 0b01101#5,
      0b01110#5, 0b10010#5, 0b10110#5, 0b11010#5] ∧ Code.ry 0xD7E0 ≠ 0) ∧
    (Code.op 0x6020 = 0b01100#5 ∧ Code.rx 0x6020 ∈ [0b000#3, 0b001#3, 0b010#3, 0b011#3] ∧ Code.ry 0x6020 ≠ 0) ∧
    (Code.op 0x1400 = 0b00010#5 ∧ (0x1400 : Half).extractLsb' 5 6 ≠ 0) ∧
    (Code.op 0x3000 = 0b00110#5 ∧ (0xF001 : Half).extractLsb' 0 6 ≠ 0) ∧
    (Code.op 0x3010 = 0b00110#5 ∧ (0x3010 : Half).extractLsb' 2 3 ≠ 0) := by decide

/-- A 16-bit instruction in the last halfword of the space, and a 32-bit one in its last word. -/
theorem hyp_StepRunsTheDecodedInstruction :
    (let s := start false 0xFFFFFFFE [] [(0xFFFFFFFE, 0x89), (0xFFFFFFFF, 0xE3)]
     s.exc = none ∧ s.isaMode = true ∧ s.delay = none ∧ HalfFetchable s s.pc ∧
       decodeBytes s.cfg.bigEndian true (fourBytes s s.pc) = .ok (.addu 2 3 4, [0, 0]) ∧
       goesOn (exec (.addu 2 3 4) s) fun t => t.pc == 0) ∧
    (let s := start true 0xFFFFFFFC [] [(0xFFFFFFFC, 0xF0), (0xFFFFFFFE, 0x48)]
     s.exc = none ∧ s.isaMode = true ∧ s.delay = none ∧ HalfFetchable s s.pc ∧ HalfFetchable s (s.pc + 2) ∧
       decodeBytes s.cfg.bigEndian true (fourBytes s s.pc) = .ok (.addiuRxImm 0 0, []) ∧
       goesOn (exec (.addiuRxImm 0 0) s) fun t => t.pc == 0) := by
  simp only [HalfFetchable]; decide

/-- BREAK; ADDU $2, $2, $3 that keeps GPR 2; the same that changes it; RESTORE ra of an unmapped word. -/
theorem hyp_DelaySlotStepTakesThePendingJump :
    (let s := slotWith 0xA5 0xE8 []
     (s.exc = none ∧ s.isaMode = true ∧ s.delay = some pendingJump ∧ HalfFetchable s s.pc ∧
       decode (.half (s.readHalf s.pc)) = .ok (.brk 5) ∧ (Instr.brk 5).isBranchOrJump = false) ∧
       goesOn (exec (.brk 5) s) fun t => t.exc != none) ∧
    (let s := slotWith 0x69 0xE2 []
     (s.delay = some pendingJump ∧ decode (.half (s.readHalf s.pc)) = .ok (.addu 2 2 3)) ∧
       goesOn (exec (.addu 2 2 3) s) fun t => t.exc == none && pendingJump.holds t) ∧
    (let s := slotWith 0x69 0xE2 [(3, 5)]
     (s.delay = some pendingJump ∧ decode (.half (s.readHalf s.pc)) = .ok (.addu 2 2 3)) ∧
       goesOn (exec (.addu 2 2 3) s) fun t => t.exc == none && !pendingJump.holds t) ∧
    (let s := { slotWith 0x41 0x64 [] with cfg := ⟨false, twoPages, []⟩ }
     (s.delay = some pendingJump ∧ HalfFetchable s s.pc ∧
       decode (.half (s.readHalf s.pc)) = .ok (.restore true false false 1)) ∧
       stops (exec (.restore true false false 1) s) (.unmappedTransfer 4 .load { s with delay := none })) := by
  simp only [HalfFetchable]; decide

/-- The test of `Delay.holds` in the terms of the statement. -/
theorem hyp_JumpRegisterKept : JumpRegisterKept pendingJump (inSlot []) ∧ ¬ JumpRegisterKept pendingJump (start false 0 [] []) :=
  ⟨fun r h => by obtain rfl : (2 : Gpr) = r := by simpa [pendingJump] using h
                 decide,
   fun h => absurd (h 2 rfl) (by decide)⟩

theorem hyp_DelaySlotRestrictions :
    (let s := slotWith 0x00 0xF0 []
     s.exc = none ∧ s.isaMode = true ∧ s.delay = some pendingJump ∧ HalfFetchable s s.pc ∧
       Code.isWide (s.readHalf s.pc) = true ∧ HalfFetchable s (s.pc + 2)) ∧
    (let s := slotWith 0xA0 0xE8 []
     s.exc = none ∧ s.isaMode = true ∧ s.delay = some pendingJump ∧ HalfFetchable s s.pc ∧
       decode (.half (s.readHalf s.pc)) = .ok .jrcRa ∧ Instr.isBranchOrJump .jrcRa = true) := by
  simp only [HalfFetchable]; decide

theorem hyp_FetchStopsOutsideMemoryAndOnWrittenBytes :
    (let s := paged 0x00400100 [] []
     s.exc = none ∧ s.isaMode = true ∧ admits s.cfg s.pc 2 .fetch = false) ∧
    (let s := { paged 0x004000FE [] [] with written := [0x004000FF] }
     s.exc = none ∧ s.isaMode = true ∧ admits s.cfg s.pc 2 .fetch = true ∧ (s.pc + 1).toNat ∈ s.written) ∧
    (let s := paged 0x004000FE [] [(0x004000FF, 0xF0)]
     s.exc = none ∧ s.isaMode = true ∧ HalfFetchable s s.pc ∧ Code.isWide (s.readHalf s.pc) = true ∧
       admits s.cfg (s.pc + 2) 2 .fetch = false) ∧
    (let s := { paged 0x004000FC [] [(0x004000FD, 0xF0)] with written := [0x004000FE] }
     s.exc = none ∧ s.isaMode = true ∧ HalfFetchable s s.pc ∧ Code.isWide (s.readHalf s.pc) = true ∧
       admits s.cfg (s.pc + 2) 2 .fetch = true ∧ (s.pc + 2).toNat ∈ s.written) ∧
    (let s := { paged 0x00400100 [] [] with isaMode := false }
     s.exc = none ∧ s.isaMode = false ∧ s.pc.extractLsb' 0 2 = 0 ∧ admits s.cfg s.pc 4 .fetch = false) ∧
    (let s := { paged 0x004000FC [] [] with isaMode := false, written := [0x004000FF] }
     s.exc = none ∧ s.isaMode = false ∧ s.pc.extractLsb' 0 2 = 0 ∧ admits s.cfg s.pc 4 .fetch = true ∧
       (byteAddr s.pc 3).toNat ∈ s.written) := by
  simp only [HalfFetchable]; decide

theorem hyp_StepIn32BitMode :
    (let s := { start false 0xFFFFFFFE [] [] with isaMode := false }
     s.exc = none ∧ s.isaMode = false ∧ s.pc.extractLsb' 0 2 ≠ 0) ∧
    (let s := { start true 0xFFFFFFFC [] [(0xFFFFFFFC, 0x74)] with isaMode := false }
     s.exc = none ∧ s.isaMode = false ∧ s.pc.extractLsb' 0 2 = 0 ∧ admits s.cfg s.pc 4 .fetch = true ∧
       (∀ k, k < 4 → (byteAddr s.pc k).toNat ∉ s.written) ∧ s.readWord s.pc = 0b011101#6 ++ 0#26 ∧ s.delay = none) ∧
    (let s := { start true 0x00400000 [] [(0x00400000, 0x74)] with isaMode := false, delay := some pendingJump }
     s.exc = none ∧ s.isaMode = false ∧ s.pc.extractLsb' 0 2 = 0 ∧ admits s.cfg s.pc 4 .fetch = true ∧
       (∀ k, k < 4 → (byteAddr s.pc k).toNat ∉ s.written) ∧ s.readWord s.pc = 0b011101#6 ++ 0#26 ∧ s.delay ≠ none) ∧
    (let s := { start true 0x00400000 [] [] with isaMode := false }
     s.exc = none ∧ s.isaMode = false ∧ s.pc.extractLsb' 0 2 = 0 ∧ admits s.cfg s.pc 4 .fetch = true ∧
       (∀ k, k < 4 → (byteAddr s.pc k).toNat ∉ s.written) ∧
       (s.readWord s.pc).extractLsb' 26 6 ≠ 0b011101#6) := by decide

theorem hyp_NothingFollowsAnException : { State.reset with exc := some ⟨.breakpoint, 0, false, none⟩ }.exc =
    some ⟨.breakpoint, 0, false, none⟩ := rfl

theorem hyp_ReturnThroughItsDelaySlot :
    let s := start true 0xFFFFFFFC [(31, 0xFFFFFFFF)] [(0xFFFFFFFC, 0xE8), (0xFFFFFFFD, 0x20), (0xFFFFFFFE, 0x65)]
    s.exc = none ∧ s.isaMode = true ∧ s.delay = none ∧ HalfFetchable s s.pc ∧ HalfFetchable s (s.pc + 2) ∧
      s.readHalf s.pc = 0xE820#16 ∧ s.readHalf (s.pc + 2) = 0x6500#16 := by
  simp only [HalfFetchable]; decide

theorem hyp_AddImmediateToPc : (inSlot []).delay ≠ none := by decide
theorem hyp_MoveReachesEveryRegister : (31 : BitVec 5) ≠ 0 ∧ (0 : BitVec 5) = 0 := by decide
theorem hyp_SignedDivideTruncates :
    (let s := start false 0 [(2, 0x80000000), (3, 1)] []
     (s.readGpr (xlat 3)).toInt ≠ 0 ∧ ¬ ((s.readGpr (xlat 2)).toInt = -2147483648 ∧ (s.readGpr (xlat 3)).toInt = -1)) ∧
    (let s := start false 0 [(2, 0x80000001), (3, 0xFFFFFFFF)] []
     (s.readGpr (xlat 3)).toInt ≠ 0 ∧
       ¬ ((s.readGpr (xlat 2)).toInt = -2147483648 ∧ (s.readGpr (xlat 3)).toInt = -1)) := by decide
theorem hyp_UnsignedDivideLeavesQuotientAndRemainder :
    ((start false 0 [(3, 0xFFFFFFFF)] []).readGpr (xlat 3)).toNat ≠ 0 := by decide
theorem hyp_DivideWithNoStatedResultCompletes :
    (start false 0 [] []).readGpr (xlat 3) = 0 ∧
    (let s := start false 0 [(2, 0x80000000), (3, 0xFFFFFFFF)] []
     s.readGpr (xlat 2) = 0x80000000 ∧ s.readGpr (xlat 3) = 0xFFFFFFFF) := by decide
theorem hyp_CompactJumps :
    let s := start false 0 [(2, 2), (31, 0xFFFFFFFE)] []
    s.exc = none ∧ s.delay = none ∧ (goesOn (exec .jrcRa s) fun t => !t.isaMode && t.pc.getLsbD 1) ∧
      (goesOn (exec (.jrcRx 2) s) fun t => !t.isaMode && t.pc.getLsbD 1) ∧
      goesOn (exec (.jalrc 2) s) fun t => !t.isaMode && t.pc.getLsbD 1 := by decide

theorem hyp_ByteLoads : admits Cfg.launch 0xFFFFFFFF 1 .load = true ∧ admits ⟨true, twoPages, []⟩ 0x00400000 1 .load = true := by
  decide
theorem hyp_HalfwordLoads :
    ((0xFFFFFFFE : Word).getLsbD 0 = false ∧ admits Cfg.launch 0xFFFFFFFE 2 .load = true) ∧
    (0xFFFFFFFF : Word).getLsbD 0 = true ∧
    (0xFFFFFFFF : Word) = (start false 0 [] []).readGpr (xlat 2) + (0xFFFF : BitVec 16).signExtend 32 := by decide
theorem hyp_WordLoads :
    (let s := start false 0x00400002 [(2, 0xFFFFFFFC), (29, 0xFFFF8000)] []
     0xFFFFFFFC = s.readGpr (xlat 2) + (0 : BitVec 16).signExtend 32 ∧
       0xFFFFFFFC = s.readGpr 29 + (0x7FFC : BitVec 16).signExtend 32 ∧
       0x003FFFFC = (s.pc &&& 0xFFFFFFFC) + (0xFFFC : BitVec 16).signExtend 32) ∧
    ((0xFFFFFFFC : Word).toNat % 4 = 0 ∧ admits Cfg.launch 0xFFFFFFFC 4 .load = true) ∧
    (0xFFFFFFFD : Word).toNat % 4 ≠ 0 := by decide
theorem hyp_ByteAndHalfwordStores :
    admits ⟨true, twoPages, []⟩ 0x7FFFEFFF 1 .store = true ∧
    ((0x7FFFEFFE : Word).getLsbD 0 = false ∧ admits ⟨true, twoPages, []⟩ 0x7FFFEFFE 2 .store = true) ∧
    (0x7FFFEFFF : Word).getLsbD 0 = true := by decide
theorem hyp_WordStores :
    ((0x7FFFEFFC : Word).toNat % 4 = 0 ∧ admits ⟨true, twoPages, []⟩ 0x7FFFEFFC 4 .store = true) ∧
    (let s := start false 0 [(2, 0x7FFFEFFC), (29, 0x7FFFF000)] []
     0x7FFFEFFC = s.readGpr (xlat 2) + (0 : BitVec 16).signExtend 32 ∧
       0x7FFFEFFC = s.readGpr 29 + (0xFFFC : BitVec 16).signExtend 32) ∧
    (0x7FFFEFFE : Word).toNat % 4 ≠ 0 := by decide
/-- Just outside a region at either end, across two widths, and a store to a read-only one. -/
theorem hyp_UnadmittedAccessFaults :
    let cfg : Cfg := ⟨true, twoPages, []⟩
    admits cfg 0x003FFFFF 1 .load = false ∧ admits cfg 0x00400100 1 .load = false ∧
    admits cfg 0x003FFFFE 2 .load = false ∧ admits cfg 0x7FFFF000 4 .load = false ∧
    admits cfg 0x00400000 1 .store = false ∧ admits cfg 0x004000FE 2 .store = false ∧
    admits cfg 0x7FFFEEFC 4 .store = false := by decide
/-- The first slot that is not admitted: the third store of V131 (95_test_vectors); the first load of RESTORE past the
page; the third argument of extended SAVE; its only slot below the page after four admitted arguments; its last load. -/
theorem hyp_UnadmittedAccessFaults_transfers :
    let cfg : Cfg := ⟨false, twoPages, []⟩
    (paged 0x00400000 [(29, 0x7FFFEF08)] []).readGpr 29 = 0x7FFFEF08 ∧ (0x7FFFEF08 : Word).toNat % 4 = 0 ∧
    FirstUnadmitted cfg (frameSlot 0x7FFFEF08) 3 2 .store ∧ frameSlot 0x7FFFEF08 2 = 0x7FFFEEFC ∧
    FirstUnadmitted cfg (frameSlot (0x7FFFEFFC + 8)) 1 0 .load ∧
    aregsTable 0b1110 = some (4, 0) ∧ FirstUnadmitted cfg (argSlot 0x7FFFEFF8) 4 2 .store ∧
    (∀ j, j < 4 → admits cfg (argSlot 0x7FFFEF00 j) 4 .store = true) ∧
    FirstUnadmitted cfg (frameSlot 0x7FFFEF00) 1 0 .store ∧
    aregsTable 0b1011 = some (0, 4) ∧ FirstUnadmitted cfg (frameSlot (0x7FFFEF2C + 8)) 14 13 .load := by
  simp only [FirstUnadmitted]; decide

/-- No register with an odd stack pointer; three registers at the bottom of the writable page. -/
theorem hyp_SaveStoresTheFrame :
    (∀ k, k < 0 → admits ⟨false, twoPages, []⟩ (frameSlot 1 k) 4 .store = true) ∧
    ((0x7FFFEF0C : Word).toNat % 4 = 0 ∧
      ∀ k, k < 3 → admits ⟨false, twoPages, []⟩ (frameSlot 0x7FFFEF0C k) 4 .store = true) := by decide
/-- Four arguments at the top of the page and none below; every register and four statics below the top. -/
theorem hyp_ExtendedSaveStoresTheFrame :
    aregsTable 0b1110 = some (4, 0) ∧ aregsTable 0b1011 = some (0, 4) ∧
    (∀ k, k < 4 → admits ⟨false, twoPages, []⟩ (argSlot 0x7FFFEFF0 k) 4 .store = true) ∧
    (∀ k, k < 14 → admits ⟨false, twoPages, []⟩ (frameSlot 0x7FFFF000 k) 4 .store = true) ∧
    (0x7FFFF000 : Word).toNat % 4 = 0 ∧ (0x7FFFEFF0 : Word).toNat % 4 = 0 := by decide
theorem hyp_RestoreLoadsTheFrame :
    (∀ k, k < 3 → admits ⟨false, twoPages, []⟩ (frameSlot (0x7FFFEF80 + 128) k) 4 .load = true) ∧
    (0x7FFFEF80 : Word).toNat % 4 = 0 := by decide
theorem hyp_ExtendedRestoreLoadsTheFrame :
    aregsTable 0b1011 = some (0, 4) ∧ aregsTable 0 = some (0, 0) ∧
    (∀ k, k < 14 → admits ⟨false, twoPages, []⟩ (frameSlot (0x7FFFEFC0 + 64) k) 4 .load = true) ∧
    (0x7FFFEFC0 : Word).toNat % 4 = 0 := by decide
theorem hyp_MisalignedFrameRaises :
    ((start false 0 [(29, 0xFFFFFFFD)] []).readGpr 29).toNat % 4 ≠ 0 ∧ (false || false || true) = true ∧
    aregsTable 0b0100 = some (1, 0) ∧ aregsTable 0b1011 = some (0, 4) ∧ aregsTable 0 = some (0, 0) ∧
    (7 : BitVec 3) ≠ 0 := by decide
theorem hyp_RestoreUndoesSave :
    let s := paged 0x00400000 [(29, 0x7FFFF000), (31, 0x00400011)] []
    (goesOn (exec (.save true true true 0) s) fun t => t.exc == none) ∧ aregsTable 0b1011 = some (0, 4) ∧
      goesOn (exec (.saveExt true true true 7 0b1011 255) s) fun t => t.exc == none := by decide
theorem hyp_BreakAndAsmacroTakeTheirExceptions :
    (7 : BitVec 3) ∉ State.reset.cfg.asmacro ∧ (7 : BitVec 3) ∈ (⟨false, [], [7]⟩ : Cfg).asmacro := by decide

/-- JR $2 with its target in the register it then remembers. -/
theorem hyp_EveryStepKeepsInv :
    State.Inv (start false 0x00400000 [(2, 0xFFFFFFFF)] [(0x00400001, 0xEA)]) ∧
    goesOn (step (start false 0x00400000 [(2, 0xFFFFFFFF)] [(0x00400001, 0xEA)])) fun t => t.delay.isSome :=
  ⟨⟨by decide, by simp [start, State.writeGpr, State.reset], by simp [start, State.writeGpr, State.reset],
    by simp [start, State.writeGpr, State.reset], by decide, by decide, by decide⟩, by decide⟩
/-- A step that completes, one that stores, and one that takes a debug exception. -/
theorem hyp_MemoryChangesOnlyWhereRecorded :
    goesOn (step ((start false 0x00400000 [(2, 1), (29, 0x7FFFEFFC)] []).withFetchWord 32 0xF000D200))
      fun t => t.readByte 0x7FFFEFFC == 1 && t.written.contains 0x7FFFEFFF := by decide
theorem hyp_ParametersAndDebugModeNeverChange :
    goesOn (step { State.reset with mem := [(0x00400000, 0x01), (0x00400001, 0xE8)], debugDM := true })
      fun t => t.debugDExcCode == 0x9 && t.cfg == Cfg.launch := by decide
theorem hyp_OnlyMultiplyAndDivideWriteHiLo :
    (goesOn (exec (.multu 2 3) (start false 0 [(2, 0xFFFFFFFF), (3, 0xFFFFFFFF)] [])) fun t => t.hi == 0xFFFFFFFE && t.lo == 1) ∧
    goesOn (exec (.div 2 3) State.reset) fun t => t.draws == 2 := by decide
theorem hyp_RegistersReachedOnlyByMove :
    goesOn (exec (.moveR32Rz 28 2) (start false 0 [(2, 0xFFFFFFFF)] [])) fun t => t.readGpr 28 == 0xFFFFFFFF := by decide
theorem hyp_IsaModeWriters :
    (goesOn (exec .jrcRa State.reset) fun t => !t.isaMode) ∧ (goesOn (exec (.jalrc 2) State.reset) fun t => !t.isaMode) ∧
    (goesOn (exec .jrRa State.reset) fun t => t.delay == some ⟨0, false, some 31⟩) ∧
    (goesOn (exec (.jalr 2) State.reset) fun t => t.delay == some ⟨0, false, some 2⟩) ∧
    (goesOn (exec (.jal 0x3FFFFFF) State.reset) fun t => t.delay == some ⟨0x0FFFFFFC, true, none⟩) ∧
    goesOn (exec (.jalx 0x3FFFFFF) State.reset) fun t => t.delay == some ⟨0x0FFFFFFC, false, none⟩ := by decide
theorem hyp_ByteOrderOfMemory :
    let s := start true 0 [(2, 0xFFFFFFFC)] []
    0xFFFFFFFC = s.readGpr (xlat 2) + (0 : BitVec 16).signExtend 32 ∧ (0xFFFFFFFC : Word).toNat % 4 = 0 ∧
      goesOn (exec (.swRyRx 2 0 2) s) := by decide
theorem hyp_ExceptionsArePrecise :
    (goesOn (step { State.reset with isaMode := false, pc := 0xFFFFFFFE, delay := some pendingJump })
      fun t => t.exc == some ⟨.addressError, 0xFFFFFFFE, true, some 0xFFFFFFFE⟩) ∧
    goesOn (step (slotWith 0xA5 0xE8 [])) fun t => t.exc == some ⟨.breakpoint, 0x00400002, true, none⟩ := by decide

end Sys2Proof.Tests
end

section
/-! SUPPORT. What every instruction leaves alone and what every step keeps (10_state R21 to R30), from the shapes of
`Effect`, and the statements that follow: O52, O55, O56, O57, O58. -/

namespace Sys2Proof.Machine

/-! ## Jump and branch targets (43_branch_jump R180, R181, R189) -/

/-- Bit 0 of a sum has no carry in. -/
theorem getLsbD_zero_add (a b : Word) : (a + b).getLsbD 0 = (a.getLsbD 0 ^^ b.getLsbD 0) := by
  simp [BitVec.getElem_add]

/-- A word whose low bits are zeros is even. -/
theorem getLsbD_zero_append_zero {n : Nat} (x : BitVec n) (k : Nat) : (x ++ 0#(k + 1)).getLsbD 0 = false := by
  rw [BitVec.getLsbD_append]; simp

theorem jumpTarget_even (w : Word) : (jumpTarget w).getLsbD 0 = false :=
  getLsbD_zero_append_zero _ 0

theorem regionTarget_even (pc : Word) (target : BitVec 26) : (regionTarget pc target).getLsbD 0 = false :=
  getLsbD_zero_append_zero _ 1

/-- The step past an instruction of 2 or 4 bytes keeps pc even. -/
theorem add_len_even {pc len : Word} (hl : len = 2 ∨ len = 4) (h : pc.getLsbD 0 = false) :
    (pc + len).getLsbD 0 = false := by
  rw [getLsbD_zero_add, h]
  rcases hl with rfl | rfl <;> rfl

/-- A branch from an even pc goes to an even address. -/
theorem branchTarget_even (pc : Word) (off : BitVec 16) (h : pc.getLsbD 0 = false) :
    (branchTarget pc off).getLsbD 0 = false := by
  have hoff : ((off ++ 0b0#1).signExtend 32).getLsbD 0 = false := by
    simp [BitVec.getLsbD_signExtend, -BitVec.getLsbD_eq_getElem, getLsbD_zero_append_zero off 0]
  rw [branchTarget, getLsbD_zero_add, hoff, add_len_even (.inr rfl) h]; rfl

theorem jumpTarget_eq_and (w : Word) : jumpTarget w = w &&& 0xFFFFFFFE := by
  apply BitVec.eq_of_getLsbD_eq
  intro k hk
  simp only [jumpTarget, BitVec.getLsbD_append, BitVec.getLsbD_extractLsb', BitVec.getLsbD_and]
  interval_cases k <;> simp

/-- The model's test of the jump register is the one the statements speak of (10_state R28). -/
theorem Delay.holds_iff (d : Delay) (s : State) : d.holds s = true ↔ JumpRegisterKept d s := by
  obtain ⟨target, mode, src⟩ := d
  cases src with
  | none => simp [Delay.holds, JumpRegisterKept]
  | some r => simp [Delay.holds, JumpRegisterKept, jumpTarget_eq_and, jumpMode]

/-! ## What the transfers of SAVE and RESTORE leave alone -/

section
variable {s t : State} {slot : Nat → Word} {ws : List Word}

theorem StoredWords.gpr (h : StoredWords s slot ws t) : t.gpr = s.gpr := by rw [h.onlyMem]
theorem StoredWords.readGpr (h : StoredWords s slot ws t) (r : Gpr) : t.readGpr r = s.readGpr r := by
  simp only [State.readGpr, h.gpr]
theorem StoredWords.pc (h : StoredWords s slot ws t) : t.pc = s.pc := by rw [h.onlyMem]
theorem StoredWords.sameHiLo (h : StoredWords s slot ws t) : SameHiLo s t := by rw [h.onlyMem]; exact ⟨rfl, rfl, rfl⟩
theorem StoredWords.sameControl (h : StoredWords s slot ws t) : SameControl s t := by rw [h.onlyMem]; exact ⟨rfl, rfl⟩
theorem StoredWords.sameSystem (h : StoredWords s slot ws t) : SameSystem s t := by
  rw [h.onlyMem]; exact ⟨rfl, rfl, rfl, rfl, rfl, rfl, rfl⟩

end

section
variable {s t : State} {top : Word} {rs : List Gpr}

theorem LoadedFrame.mem (h : LoadedFrame s top rs t) : t.mem = s.mem := by rw [h.onlyGpr]
theorem LoadedFrame.written (h : LoadedFrame s top rs t) : t.written = s.written := by rw [h.onlyGpr]
theorem LoadedFrame.pc (h : LoadedFrame s top rs t) : t.pc = s.pc := by rw [h.onlyGpr]
theorem LoadedFrame.sameHiLo (h : LoadedFrame s top rs t) : SameHiLo s t := by rw [h.onlyGpr]; exact ⟨rfl, rfl, rfl⟩
theorem LoadedFrame.sameControl (h : LoadedFrame s top rs t) : SameControl s t := by rw [h.onlyGpr]; exact ⟨rfl, rfl⟩
theorem LoadedFrame.sameSystem (h : LoadedFrame s top rs t) : SameSystem s t := by
  rw [h.onlyGpr]; exact ⟨rfl, rfl, rfl, rfl, rfl, rfl, rfl⟩

end

theorem SameHiLo.trans {s t u : State} (h1 : SameHiLo s t) (h2 : SameHiLo t u) : SameHiLo s u := by
  obtain ⟨hhi, hlo, hdraws⟩ := h1
  obtain ⟨hhi', hlo', hdraws'⟩ := h2
  exact ⟨hhi'.trans hhi, hlo'.trans hlo, hdraws'.trans hdraws⟩

theorem SameControl.trans {s t u : State} (h1 : SameControl s t) (h2 : SameControl t u) : SameControl s u := by
  obtain ⟨hmode, hdelay⟩ := h1
  obtain ⟨hmode', hdelay'⟩ := h2
  exact ⟨hmode'.trans hmode, hdelay'.trans hdelay⟩

theorem SameSystem.trans {s t u : State} (h1 : SameSystem s t) (h2 : SameSystem t u) : SameSystem s u := by
  obtain ⟨hdm, hcode, hdepc, hhi, hlo, hexc, hcfg⟩ := h1
  obtain ⟨hdm', hcode', hdepc', hhi', hlo', hexc', hcfg'⟩ := h2
  exact ⟨hdm'.trans hdm, hcode'.trans hcode, hdepc'.trans hdepc, hhi'.trans hhi, hlo'.trans hlo,
    hexc'.trans hexc, hcfg'.trans hcfg⟩

section
variable {i : Instr} {s t : State}

/-! ## What an instruction leaves alone, field by field -/

/-- An instruction leaves the debug and watch registers, the outcome record and the parameters alone, or takes one
exception: SDBBP, alone, writes DExcCode and DEPC. -/
theorem Effect.system (h : Effect i s t) :
    SameSystem s t ∨ (∃ k a, t = s.raise k a) ∨
      ∃ k c, (k = .debugBreakpoint ∨ k = .debugModeBreakpoint) ∧ t = { s.raiseDebug k with debugDExcCode := c } := by
  cases h with
  | raises k a _ => exact .inr (.inl ⟨k, a, rfl⟩)
  | raisesDebug k c hk => exact .inr (.inr ⟨k, c, hk, rfl⟩)
  | branch c off => left; cases c <;> simp [SameSystem]
  | saves s1 s2 _ _ _ _ _ h1 h2 => left; simpa [SameSystem] using h1.sameSystem.trans h2.sameSystem
  | restores s1 _ _ _ _ _ _ _ _ _ h => left; simpa [SameSystem] using h.sameSystem
  | _ => left; simp [SameSystem]

/-- HI, LO and the draws change only under the four instructions of 44_muldiv that write them. -/
theorem Effect.hiLo_frame (h : Effect i s t) :
    SameHiLo s t ∨ ∃ rx ry, i = .mult rx ry ∨ i = .multu rx ry ∨ i = .div rx ry ∨ i = .divu rx ry := by
  cases h with
  | hiLo _ _ h => exact .inr h
  | draws h => obtain ⟨rx, ry, h⟩ := h; exact .inr ⟨rx, ry, .inr (.inr h)⟩
  | branch c off => left; cases c <;> simp [SameHiLo]
  | saves s1 s2 _ _ _ _ _ h1 h2 => left; simpa [SameHiLo] using h1.sameHiLo.trans h2.sameHiLo
  | restores s1 _ _ _ _ _ _ _ _ _ h => left; simpa [SameHiLo] using h.sameHiLo
  | _ => left; simp [SameHiLo]

/-- The registers that links and the loads of RESTORE reach (43_branch_jump R181, 46_save_restore R251, R252). -/
def linkAndFrameRegs : List Gpr := [31, 18, 19, 20, 21, 22, 23, 30, 17, 16, 7, 6, 5, 4]

theorem mem_of_mem_frameRegs {r : Gpr} {ra s0 s1 : Bool} {xs : BitVec 3} {n : Nat}
    (h : r ∈ frameRegs ra s0 s1 (xsRegs xs) (staticRegs n)) :
    r ∈ linkAndFrameRegs := by
  have hxs : r ∈ xsRegs xs → r ∈ ([18, 19, 20, 21, 22, 23, 30] : List Gpr) := fun h =>
    List.mem_of_mem_take (List.mem_reverse.mp h)
  have hst : r ∈ staticRegs n → r ∈ ([7, 6, 5, 4] : List Gpr) := List.mem_of_mem_take
  simp only [frameRegs, List.mem_append] at h
  simp only [linkAndFrameRegs]
  rcases h with (((h | h) | h) | h) | h
  · cases ra <;> simp_all
  · have := hxs h; simp at this ⊢; tauto
  · cases s1 <;> simp_all
  · cases s0 <;> simp_all
  · have := hst h; simp at this ⊢; tauto

/-- A register that reads differently after a write is the one written. -/
theorem State.eq_of_readGpr_writeGpr_ne {r q : Gpr} {v : Word} (h : (s.writeGpr r v).readGpr q ≠ s.readGpr q) :
    q = r := by
  by_contra hne; exact h (s.readGpr_writeGpr_ne r q v hne)

/-- The registers an instruction can change: those of `MayWrite`, and those of links and RESTORE. -/
theorem Effect.readGpr_frame (h : Effect i s t) {r : Gpr} (hr : t.readGpr r ≠ s.readGpr r) :
    MayWrite i r ∨ r ∈ linkAndFrameRegs := by
  cases h with
  | writes q v len hq _ => left; rwa [State.eq_of_readGpr_writeGpr_ne hr]
  | branch c off => cases c <;> simp at hr
  | compactLink rx _ => right; rw [State.eq_of_readGpr_writeGpr_ne hr]; decide
  | jumpLink rx _ => right; rw [State.eq_of_readGpr_writeGpr_ne hr]; decide
  | region link target mode _ => right; rw [State.eq_of_readGpr_writeGpr_ne hr]; decide
  | saves s1 s2 _ _ sp _ _ h1 h2 =>
    left; right; right; left
    rw [← h1.readGpr, ← h2.readGpr] at hr
    exact State.eq_of_readGpr_writeGpr_ne hr
  | restores s1 _ _ _ _ _ _ _ _ _ h =>
    by_cases hf : s1.readGpr r = s.readGpr r
    · left; right; right; left
      rw [← hf] at hr
      exact State.eq_of_readGpr_writeGpr_ne hr
    · right
      by_contra hne
      exact hf (h.others r fun hm => hne (mem_of_mem_frameRegs hm))
  | _ => exact absurd (by simp [State.readGpr]) hr

/-- The place that stands for GPR 0 is never written (10_state R21). -/
theorem Effect.gpr_zero (h : Effect i s t) : t.gpr[0] = s.gpr[0] := by
  cases h with
  | branch c off => cases c <;> simp
  | saves s1 s2 _ _ _ _ _ h1 h2 => simp [h2.gpr, h1.gpr]
  | restores s1 _ _ _ _ _ _ _ _ _ h => simp [h.zero]
  | _ => simp

/-- An instruction keeps memory and the written set in their canonical forms. -/
theorem Effect.keeps_wf (h : Effect i s t) (hm : Memory.wf s.mem = true) (hw : WriteSet.wf s.written = true) :
    Memory.wf t.mem = true ∧ WriteSet.wf t.written = true := by
  cases h with
  | branch c off => cases c <;> exact ⟨hm, hw⟩
  | stores a bs => exact s.writeBytes_wf a bs hm hw
  | saves s1 s2 _ _ _ _ _ h1 h2 =>
    obtain ⟨hm1, hw1⟩ := h1.wf hm hw
    simpa using h2.wf hm1 hw1
  | restores s1 _ _ _ _ _ _ _ _ _ h => simp [h.mem, h.written, hm, hw]
  | _ => simp [hm, hw]

/-- An instruction keeps pc even (10_state R25). -/
theorem Effect.keeps_pc_even (h : Effect i s t) (hpc : s.pc.getLsbD 0 = false) : t.pc.getLsbD 0 = false := by
  cases h with
  | writes r v len _ hl => simpa using add_len_even hl hpc
  | branch c off =>
    cases c
    · exact add_len_even (.inr rfl) hpc
    · exact branchTarget_even s.pc off hpc
  | compact r _ => exact jumpTarget_even _
  | compactLink rx _ => exact jumpTarget_even _
  | raises => exact hpc
  | raisesDebug => exact hpc
  | saves s1 s2 _ _ _ len hl h1 h2 =>
    rw [State.advance_pc, State.writeGpr_pc, h2.pc, h1.pc]; exact add_len_even hl hpc
  | restores s1 _ _ len _ _ _ _ _ hl h =>
    rw [State.advance_pc, State.writeGpr_pc, h.pc]; exact add_len_even hl hpc
  | nothing | hiLo | draws | jump => exact add_len_even (.inl rfl) hpc
  | jumpLink => simpa using add_len_even (.inl rfl) hpc
  | region => simpa using add_len_even (.inr rfl) hpc
  | stores => simpa using add_len_even (.inr rfl) hpc

/-! ## ISAMode and the pending jump (10_state R26, R28) -/

/-- The jumps with a delay slot and what each leaves pending: through a register, which the link of JALR does not
change, or to an address of the region of pc. -/
inductive LeavesPending (i : Instr) (s t : State) : Prop
  | register (r : Gpr) (hi : (i = .jrRa ∧ r = regRa) ∨ ∃ rx, (i = .jrRx rx ∨ i = .jalr rx) ∧ r = xlat rx)
      (hr : t.readGpr r = s.readGpr r)
      (hd : t.delay = some ⟨jumpTarget (s.readGpr r), jumpMode (s.readGpr r), some r⟩)
  | region (target : BitVec 26) (mode : Bool)
      (hi : (i = .jal target ∧ mode = s.isaMode) ∨ (i = .jalx target ∧ mode = !s.isaMode))
      (hd : t.delay = some ⟨regionTarget s.pc target, mode, none⟩)

/-- An instruction keeps the pending jump, discards it with an exception, or is a jump that leaves its own. -/
theorem Effect.delay (h : Effect i s t) : t.delay = s.delay ∨ t.delay = none ∨ LeavesPending i s t := by
  cases h with
  | raises | raisesDebug => exact .inr (.inl rfl)
  | branch c off => left; cases c <;> rfl
  | jump r h =>
    refine .inr (.inr (.register r ?_ rfl rfl))
    rcases h with h | ⟨rx, h, hr⟩
    · exact .inl h
    · exact .inr ⟨rx, .inl h, hr⟩
  | jumpLink rx h => exact .inr (.inr (.register (xlat rx) (.inr ⟨rx, .inr h, rfl⟩) (by simp) rfl))
  | region link target mode h => exact .inr (.inr (.region target mode h rfl))
  | saves s1 s2 _ _ _ _ _ h1 h2 => left; simpa using (h1.sameControl.trans h2.sameControl).2
  | restores s1 _ _ _ _ _ _ _ _ _ h => left; simpa using h.sameControl.2
  | _ => left; simp

/-- What a jump leaves pending is even and agrees with its register. -/
theorem LeavesPending.sound (h : LeavesPending i s t) {d : Delay} (hd : t.delay = some d) :
    d.target.getLsbD 0 = false ∧ d.holds t = true := by
  cases h with
  | register r _ hr hd' =>
    obtain rfl := Option.some.inj (hd.symm.trans hd')
    exact ⟨jumpTarget_even _, by simp [Delay.holds, hr]⟩
  | region target mode _ hd' =>
    obtain rfl := Option.some.inj (hd.symm.trans hd')
    exact ⟨regionTarget_even _ _, rfl⟩

/-- ISAMode is kept but by the compact jumps, which take it from bit 0 of their register. -/
theorem Effect.isaMode (h : Effect i s t) :
    t.isaMode = s.isaMode ∨ (i = .jrcRa ∧ t.isaMode = jumpMode (s.readGpr regRa)) ∨
      ∃ rx, (i = .jrcRx rx ∨ i = .jalrc rx) ∧ t.isaMode = jumpMode (s.readGpr (xlat rx)) := by
  cases h with
  | compact r h =>
    right
    rcases h with ⟨hi, rfl⟩ | ⟨rx, hi, rfl⟩
    · exact .inl ⟨hi, rfl⟩
    · exact .inr ⟨rx, .inl hi, rfl⟩
  | compactLink rx hi => exact .inr (.inr ⟨rx, .inr hi, rfl⟩)
  | branch c off => left; cases c <;> rfl
  | saves s1 s2 _ _ _ _ _ h1 h2 => left; simpa using (h1.sameControl.trans h2.sameControl).1
  | restores s1 _ _ _ _ _ _ _ _ _ h => left; simpa using h.sameControl.1
  | _ => left; simp

/-! ## Every step keeps the invariant -/

/-- After an exception no jump is pending, and the record names the pc that stands. -/
theorem Effect.keeps_excPrecise (h : Effect i s t) (hs : s.exc = none) :
    ∀ e, t.exc = some e → t.delay = none ∧ e.epc = t.pc := by
  intro e he
  rcases h.system with hsys | ⟨k, a, rfl⟩ | ⟨k, c, _, rfl⟩
  · obtain ⟨-, -, -, -, -, hexc, -⟩ := hsys
    rw [hexc, hs] at he; cases he
  · cases he; exact ⟨rfl, rfl⟩
  · cases he; exact ⟨rfl, rfl⟩

/-- An instruction run with no jump pending, or one that takes an exception, leaves the invariant. -/
theorem Effect.keeps_inv (h : Effect i s t) (hinv : s.Inv) (hexc : s.exc = none)
    (hend : t.exc.isSome ∨ s.delay = none) : t.Inv := by
  have hprec := h.keeps_excPrecise hexc
  have hpend : ∀ d, t.delay = some d → d.target.getLsbD 0 = false ∧ d.holds t = true := by
    intro d hd
    have hnone : t.exc.isSome = true → t.delay = none := fun he => by
      obtain ⟨e, he⟩ := Option.isSome_iff_exists.mp he
      exact (hprec e he).1
    rcases h.delay with hkeep | hnew | hleaves
    · rcases hend with he | hs
      · rw [hnone he] at hd; cases hd
      · rw [hkeep, hs] at hd; cases hd
    · rw [hnew] at hd; cases hd
    · exact hleaves.sound hd
  obtain ⟨hm, hw⟩ := h.keeps_wf hinv.memWf hinv.writtenWf
  exact
    { pcEven := h.keeps_pc_even hinv.pcEven
      targetEven := fun d hd => (hpend d hd).1
      delayHolds := fun d hd => (hpend d hd).2
      excPrecise := hprec
      zeroIsZero := h.gpr_zero.trans hinv.zeroIsZero
      memWf := hm
      writtenWf := hw }

/-- A pending jump that is taken leaves the invariant: its target is even. -/
theorem Effect.takes_jump_inv (h : Effect i s t) (hinv : s.Inv) {d : Delay} (hd : s.delay = some d)
    (hexc : t.exc = none) : State.Inv { t with delay := none, pc := d.target, isaMode := d.mode } := by
  obtain ⟨hm, hw⟩ := h.keeps_wf hinv.memWf hinv.writtenWf
  exact
    { pcEven := hinv.targetEven d hd
      targetEven := fun _ hn => by cases hn
      delayHolds := fun _ hn => by cases hn
      excPrecise := fun e he => by rw [hexc] at he; cases he
      zeroIsZero := h.gpr_zero.trans hinv.zeroIsZero
      memWf := hm
      writtenWf := hw }

/-- Taking an exception with no other effect keeps the invariant. -/
theorem State.Inv.raise (hinv : s.Inv) (k : ExcKind) (a : Option Word) : (s.raise k a).Inv where
  pcEven := hinv.pcEven
  targetEven _ hd := by cases hd
  delayHolds _ hd := by cases hd
  excPrecise e he := by cases he; exact ⟨rfl, rfl⟩
  zeroIsZero := hinv.zeroIsZero
  memWf := hinv.memWf
  writtenWf := hinv.writtenWf

end

/-- Settles O52: an instruction keeps each part of the invariant, and a pending jump lands on its even target. -/
theorem everyStepKeepsInv : Obligations.EveryStepKeepsInv := by
  intro s t hinv hstep
  obtain ⟨hexc, ⟨_, _, rfl⟩ | ⟨c, i, u, _, _, _, _, hex, hret⟩⟩ := step_next s t hstep
  · exact hinv.raise _ _
  · have heff := exec_effect i s u hex
    rcases u.retire_next _ t hret with ⟨rfl, hend⟩ | ⟨d, hd, hu, _, rfl⟩
    · exact heff.keeps_inv hinv hexc hend
    · exact heff.takes_jump_inv hinv hd hu

/-! ## What no instruction changes -/

/-- Settles O55: only SDBBP writes a debug register, and the end of a step writes none. -/
theorem parametersAndDebugModeNeverChange : Obligations.ParametersAndDebugModeNeverChange := by
  intro s t hstep
  obtain ⟨_, ⟨_, _, rfl⟩ | ⟨c, i, u, _, _, _, _, hex, hret⟩⟩ := step_next s t hstep
  · simp
  · have hu : u.cfg = s.cfg ∧ u.debugDM = s.debugDM ∧ u.watchHi = s.watchHi ∧ u.watchLo = s.watchLo ∧
        (u.debugDExcCode ≠ s.debugDExcCode ∨ u.depc ≠ s.depc →
          ∃ e, u.exc = some e ∧ (e.kind = .debugBreakpoint ∨ e.kind = .debugModeBreakpoint)) := by
      rcases (exec_effect i s u hex).system with hsys | ⟨k, a, rfl⟩ | ⟨k, c, hk, rfl⟩
      · obtain ⟨hdm, hcode, hdepc, hhi, hlo, -, hcfg⟩ := hsys
        exact ⟨hcfg, hdm, hhi, hlo, fun h => by simp [hcode, hdepc] at h⟩
      · simp
      · simpa using fun _ => hk
    rcases u.retire_next _ t hret with ⟨rfl, _⟩ | ⟨d, _, _, _, rfl⟩
    · exact hu
    · exact hu

/-- Settles O56: every other shape of `Effect` keeps HI, LO and the draws. -/
theorem onlyMultiplyAndDivideWriteHiLo : Obligations.OnlyMultiplyAndDivideWriteHiLo := by
  intro i s t hex hne
  rcases (exec_effect i s t hex).hiLo_frame with ⟨hhi, hlo, hdraws⟩ | h
  · simp [hhi, hlo, hdraws] at hne
  · exact h

/-- Settles O57: the 3-bit fields, GPR 24, GPR 29, the link and the frames reach none of these registers. -/
theorem registersReachedOnlyByMove : Obligations.RegistersReachedOnlyByMove := by
  intro i s t r hex hne
  refine ⟨fun h0 => hne (by simp [h0]), fun hmem => ?_⟩
  have hfield : ∀ f, xlat f ∉ ([1, 8, 9, 10, 11, 12, 13, 14, 15, 25, 26, 27, 28] : List Gpr) := by decide
  have hlinks : ∀ q ∈ linkAndFrameRegs, q ∉ ([1, 8, 9, 10, 11, 12, 13, 14, 15, 25, 26, 27, 28] : List Gpr) := by
    decide
  rcases (exec_effect i s t hex).readGpr_frame hne with (⟨f, rfl⟩ | rfl | rfl | ⟨r32, rz, hi, rfl⟩) | hframe
  · exact absurd hmem (hfield f)
  · exact absurd hmem (by decide)
  · exact absurd hmem (by decide)
  · exact ⟨r32, rz, hi, rfl⟩
  · exact absurd hmem (hlinks r hframe)

/-- Settles O58, from what each shape of `Effect` does to ISAMode and to the pending jump. -/
theorem isaModeWriters : Obligations.IsaModeWriters := by
  intro i s t hex
  have heff := exec_effect i s t hex
  refine ⟨fun hne => heff.isaMode.resolve_left hne, fun d hd hne => ?_⟩
  rcases heff.delay with hkeep | hnone | hleaves
  · exact absurd hkeep hne
  · rw [hnone] at hd; cases hd
  · cases hleaves with
    | register r hi _ hd' =>
      obtain rfl := Option.some.inj (hd.symm.trans hd')
      rcases hi with ⟨hi, rfl⟩ | ⟨rx, hi, rfl⟩
      · exact .inl ⟨hi, rfl⟩
      · exact .inr (.inl ⟨rx, hi, rfl⟩)
    | region target mode hi hd' =>
      obtain rfl := Option.some.inj (hd.symm.trans hd')
      rcases hi with ⟨hi, hm⟩ | ⟨hi, hm⟩
      · exact .inr (.inr (.inl ⟨target, hi, hm⟩))
      · exact .inr (.inr (.inr ⟨target, hi, hm⟩))

end Sys2Proof.Machine
end

section
/-! SUPPORT. What one step does with the instruction it fetches (10_state R30, R33; 20_memory R58), and the launch
state: O9, O10, O12, O8, O51, O53. -/

namespace Sys2Proof.Machine

section
variable {s : State}

/-! ## Fetching (20_memory R58, R63) -/

/-- A fetch that is admitted and touches no byte stored to since launch passes. -/
theorem State.checkFetch_ok {a : Word} {n : Nat} (hadmit : admits s.cfg a n .fetch = true)
    (hfresh : ∀ k, k < n → (byteAddr a k).toNat ∉ s.written) : s.checkFetch a n = .ok () := by
  have htouch : s.touchesWritten a n = false := by
    simpa [State.touchesWritten, byteAddr] using hfresh
  simp [State.checkFetch, hadmit, htouch]

theorem HalfFetchable.fetch16 {a : Word} (h : HalfFetchable s a) : s.fetch16 a = .ok (s.readHalf a) := by
  obtain ⟨hadmit, h0, h1⟩ := h
  have hfresh : ∀ k, k < 2 → (byteAddr a k).toNat ∉ s.written := by
    intro k hk
    interval_cases k
    · simpa [byteAddr] using h0
    · exact h1
  rw [State.fetch16, State.checkFetch_ok hadmit hfresh]

/-- A 16-bit instruction is the halfword at pc. -/
theorem State.fetchCode16_half (h : HalfFetchable s s.pc) (hw : Code.isWide (s.readHalf s.pc) = false) :
    s.fetchCode16 = .ok (.half (s.readHalf s.pc)) := by
  simp [State.fetchCode16, h.fetch16, hw]

/-- A 32-bit MIPS16e instruction is the two halfwords at pc. -/
theorem State.fetchCode16_pair (h : HalfFetchable s s.pc) (hw : Code.isWide (s.readHalf s.pc) = true)
    (h2 : HalfFetchable s (s.pc + 2)) :
    s.fetchCode16 = .ok (.pair (s.readHalf s.pc) (s.readHalf (s.pc + 2))) := by
  simp only [State.fetchCode16, h.fetch16, hw, if_true, h2.fetch16]

/-- The decoder on the four bytes at an address reads the halfwords there (30_encoding R81, R82). -/
theorem codeOfBytes16_fourBytes (s : State) (a : Word) :
    codeOfBytes16 s.cfg.bigEndian (fourBytes s a) =
      if Code.isWide (s.readHalf a) then some (.pair (s.readHalf a) (s.readHalf (a + 2)), [])
      else some (.half (s.readHalf a), [s.readByte (a + 2), s.readByte (a + 3)]) := by
  have hnext : a + 2 + 1 = a + 3 := by bv_omega
  simp only [codeOfBytes16, fourBytes, State.readHalf, hnext]

/-- The decoder on bytes decodes the code that stands at their head. -/
theorem code_of_decodeBytes {be : Bool} {bs rest : List Byte} {i : Instr}
    (h : decodeBytes be true bs = .ok (i, rest)) : ∃ c, codeOfBytes16 be bs = some (c, rest) ∧ decode c = .ok i := by
  simp only [decodeBytes, if_true] at h
  split at h
  · cases h
  · next c rest' hc =>
    split at h
    · next j hj => cases h; exact ⟨c, hc, hj⟩
    · cases h

/-- What the decoder reads from the bytes at pc is what the step fetches and decodes. -/
theorem fetchCode16_of_decodeBytes {i : Instr} {rest : List Byte} (h : HalfFetchable s s.pc)
    (h2 : rest = [] → HalfFetchable s (s.pc + 2))
    (hdec : decodeBytes s.cfg.bigEndian true (fourBytes s s.pc) = .ok (i, rest)) :
    ∃ c, s.fetchCode16 = .ok c ∧ decode c = .ok i := by
  obtain ⟨c, hcode, hc⟩ := code_of_decodeBytes hdec
  rw [codeOfBytes16_fourBytes] at hcode
  refine ⟨c, ?_, hc⟩
  split at hcode
  · next hw => cases hcode; exact State.fetchCode16_pair h hw (h2 rfl)
  · next hw => cases hcode; exact State.fetchCode16_half h (by simpa using hw)

/-- A halfword that decodes alone begins no 32-bit instruction (30_encoding R81). -/
theorem isWide_of_decode_half {hw : Half} {i : Instr} (h : decode (.half hw) = .ok i) : Code.isWide hw = false := by
  by_contra hwide
  rw [decode, if_pos (by simpa using hwide)] at h
  cases h

/-! ## Running what was fetched (10_state R30, R33) -/

theorem step_mips16e (hexc : s.exc = none) (hm : s.isaMode = true) : step s = s.runFetched s.fetchCode16 := by
  simp [step, State.runStep, hexc, hm]

theorem step_mips32 (hexc : s.exc = none) (hm : s.isaMode = false) (hal : wordAligned s.pc = true) :
    step s = s.runFetched s.fetchCode32 := by
  simp [step, State.runStep, hexc, hm, hal]

theorem step_mips32_misaligned (hexc : s.exc = none) (hm : s.isaMode = false) (hal : wordAligned s.pc = false) :
    step s = .next (s.raise .addressError (some s.pc)) := by
  simp [step, State.runStep, hexc, hm, hal]

/-- A decoded instruction that may stand where it does is run. -/
theorem State.runCode_of_decode {c : Code} {i : Instr} (hlen : slotRejectsCode s.delay.isSome c = false)
    (hdec : decode c = .ok i) (hslot : s.delay.isSome = true → i.isBranchOrJump = false) :
    s.runCode c = s.runInstr i := by
  have hstop : slotStop s.delay.isSome c i = none := by
    unfold slotStop
    split
    · next h => simp only [Bool.and_eq_true] at h; simp [hslot h.1] at h
    · rfl
  simp [State.runCode, hlen, hdec, hstop]

/-- With no jump pending the step adds nothing to the instruction. -/
theorem State.runInstr_of_delay_none (hd : s.delay = none) (i : Instr) : s.runInstr i = exec i s := by
  have hret : ∀ t : State, t.retire none = .next t := by intro t; unfold State.retire; split <;> simp_all
  cases hex : exec i s <;> simp [State.runInstr, hex, hd, hret]

/-- With no jump pending every code that decodes is run, whatever its length. -/
theorem State.runCode_of_delay_none {c : Code} {i : Instr} (hd : s.delay = none) (hdec : decode c = .ok i) :
    s.runCode c = exec i s := by
  have hlen : slotRejectsCode s.delay.isSome c = false := by cases c <;> simp [slotRejectsCode, hd]
  rw [State.runCode_of_decode hlen hdec (by simp [hd]), State.runInstr_of_delay_none hd]

/-- An exception ends the step, whatever jump was pending (60_exceptions R310). -/
theorem State.retire_of_exc {t : State} (h : t.exc ≠ none) (pending : Option Delay) : t.retire pending = .next t := by
  obtain ⟨e, he⟩ := Option.ne_none_iff_exists'.mp h
  simp [State.retire, he]

/-- A pending jump is taken exactly if its register still gives its target and mode. -/
theorem State.retire_of_pending {t : State} (h : t.exc = none) (d : Delay) :
    t.retire (some d) = if d.holds t then .next { t with delay := none, pc := d.target, isaMode := d.mode }
      else .fault (.unpredictable .jumpRegisterChanged) := by
  simp [State.retire, h]

/-- The step of a 16-bit instruction in a delay slot: the branch test, then the instruction. -/
theorem step_slot {d : Delay} {i : Instr} (hexc : s.exc = none) (hm : s.isaMode = true) (hd : s.delay = some d)
    (hf : HalfFetchable s s.pc) (hdec : decode (.half (s.readHalf s.pc)) = .ok i) :
    step s = if i.isBranchOrJump then .fault (.unpredictable .jumpInDelaySlot) else s.runInstr i := by
  rw [step_mips16e hexc hm, State.fetchCode16_half hf (isWide_of_decode_half hdec), State.runFetched]
  split
  · next hb => simp [State.runCode, slotRejectsCode, hdec, slotStop, hd, hb]
  · next hb => exact State.runCode_of_decode rfl hdec fun _ => by simpa using hb

/-- Every word of 32-bit mode but JALX is refused, in a delay slot or not (10_state R33). -/
theorem State.runCode_mips32_refused (w : Word) (h : w.extractLsb' 26 6 ≠ 0b011101#6) :
    s.runCode (.mips32 w) = .refused (.mips32NotInSource w) := by
  simp [State.runCode, slotRejectsCode, decode, h, refusalOf]

/-- The word of JALX in 32-bit mode decodes to it (43_branch_jump R190). -/
theorem decode_jalx (index : BitVec 26) : decode (.mips32 (0b011101#6 ++ index)) = .ok (.jalx index) := by
  have hop : (0b011101#6 ++ index).extractLsb' 26 6 = 0b011101#6 := by
    apply BitVec.eq_of_getLsbD_eq
    intro k hk
    simp only [BitVec.getLsbD_append, BitVec.getLsbD_extractLsb']
    interval_cases k <;> rfl
  have hindex : (0b011101#6 ++ index).extractLsb' 0 26 = index := by
    apply BitVec.eq_of_getLsbD_eq
    intro k hk
    simp only [BitVec.getLsbD_append, BitVec.getLsbD_extractLsb', Nat.zero_add, hk, decide_true, Bool.true_and, if_true]
  simp only [decode, hop, hindex, if_true]

end

/-! ## The statements of 10_state R30 and R33 -/

/-- Settles O9: the slot instruction is run, and `retire` ends the step with the jump that was pending. -/
theorem delaySlotStepTakesThePendingJump : Obligations.DelaySlotStepTakesThePendingJump := by
  intro s d i hexc hm hd hf hdec hb
  have hstep : step s = s.runInstr i := by rw [step_slot hexc hm hd hf hdec, hb]; rfl
  refine ⟨fun t hex => ?_, fun f hex => by simp [hstep, State.runInstr, hex]⟩
  have hret : step s = t.retire (some d) := by simp [hstep, State.runInstr, hex, hd]
  refine ⟨fun ht => hret.trans (State.retire_of_exc ht _), fun ht hkept => ?_, fun ht hchanged => ?_⟩
  · rw [hret, State.retire_of_pending ht, if_pos ((d.holds_iff t).mpr hkept)]
  · rw [hret, State.retire_of_pending ht, if_neg (mt (d.holds_iff t).mp hchanged)]

/-- Settles O10: the length test stands before decoding, the branch test after it. -/
theorem delaySlotRestrictions : Obligations.DelaySlotRestrictions := by
  intro s d hexc hm hd hf
  refine ⟨fun hw hf2 => ?_, fun i hdec hb => ?_⟩
  · rw [step_mips16e hexc hm, State.fetchCode16_pair hf hw hf2]
    simp [State.runFetched, State.runCode, slotRejectsCode, hd]
  · rw [step_slot hexc hm hd hf hdec, if_pos hb]

/-- Settles O12, by whether pc is a multiple of 4 and, where it is, by the word there. -/
theorem stepIn32BitMode : Obligations.StepIn32BitMode := by
  intro s hexc hm
  refine ⟨fun hal => ?_, fun hal hadmit hfresh => ?_⟩
  · have hal' : wordAligned s.pc = false := by simpa [wordAligned] using hal
    exact ⟨_, step_mips32_misaligned hexc hm hal', by simp [SameGprExcept, SameHiLo, SameMem]⟩
  · have hstep : step s = s.runCode (.mips32 (s.readWord s.pc)) := by
      rw [step_mips32 hexc hm (by simp [wordAligned, hal]), State.fetchCode32, State.checkFetch_ok hadmit hfresh]
      rfl
    refine ⟨fun index hword => ⟨fun hd => ?_, fun hd => ?_⟩, fun hop => ?_⟩
    · rw [hstep, hword]
      exact State.runCode_of_delay_none hd (decode_jalx index)
    · have hslot : s.delay.isSome = true := Option.isSome_iff_ne_none.mpr hd
      rw [hstep, hword]
      simp [State.runCode, slotRejectsCode, decode_jalx, slotStop, hslot, Instr.isBranchOrJump]
    · rw [hstep]
      exact State.runCode_mips32_refused _ hop

/-- Settles O8: the step fetches the code that the bytes decode from, and no delay-slot rule applies. -/
theorem stepRunsTheDecodedInstruction : Obligations.StepRunsTheDecodedInstruction := by
  intro s i rest hexc hm hd hf hf2 hdec
  obtain ⟨c, hfetch, hc⟩ := fetchCode16_of_decodeBytes hf hf2 hdec
  rw [step_mips16e hexc hm, hfetch]
  exact State.runCode_of_delay_none hd hc

/-! ## The launch state (10_state R34) -/

/-- Settles O51. -/
theorem invHoldsAtReset : Obligations.InvHoldsAtReset where
  pcEven := rfl
  targetEven _ hd := by cases hd
  delayHolds _ hd := by cases hd
  excPrecise _ he := by cases he
  zeroIsZero := rfl
  memWf := rfl
  writtenWf := rfl

/-- Settles O53. -/
theorem launchStateValues : Obligations.LaunchStateValues := by
  have heven := invHoldsAtReset.pcEven
  exact ⟨rfl, rfl, rfl, State.readGpr_zero _, heven, rfl, rfl⟩

end Sys2Proof.Machine
end

section
/-! SUPPORT. What memory does under fetches and stores (20_memory R52 to R63), and the statements
that follow: O11, O54, O59. -/

namespace Sys2Proof.Machine

section
variable {s : State}

/-! ## Fetches that stop (20_memory R57, R58, R63) -/

theorem State.touchesWritten_iff {a : Word} {n : Nat} :
    s.touchesWritten a n = true ↔ ∃ k, k < n ∧ (byteAddr a k).toNat ∈ s.written := by
  simp [State.touchesWritten, byteAddr]

theorem State.checkFetch_unadmitted {a : Word} {n : Nat} (h : admits s.cfg a n .fetch = false) :
    s.checkFetch a n = .error (.unmappedAccess a .fetch) := by
  simp [State.checkFetch, h]

theorem State.checkFetch_written {a : Word} {n : Nat} (hadmit : admits s.cfg a n .fetch = true)
    (hw : ∃ k, k < n ∧ (byteAddr a k).toNat ∈ s.written) : s.checkFetch a n = .error (.fetchOfWrittenMemory a) := by
  simp [State.checkFetch, hadmit, State.touchesWritten_iff.mpr hw]

/-- A halfword one of whose bytes was stored to, its bytes counted from 0. -/
theorem exists_written_of_half {a : Word} (h : a.toNat ∈ s.written ∨ (a + 1).toNat ∈ s.written) :
    ∃ k, k < 2 ∧ (byteAddr a k).toNat ∈ s.written := by
  rcases h with h | h
  · exact ⟨0, by omega, by simpa [byteAddr] using h⟩
  · exact ⟨1, by omega, h⟩

/-- The step stops where the first halfword of MIPS16e mode cannot be fetched. -/
theorem step_first_fetch_fault {f : Fault} (hexc : s.exc = none) (hm : s.isaMode = true)
    (h : s.checkFetch s.pc 2 = .error f) : step s = .fault f := by
  simp only [step_mips16e hexc hm, State.fetchCode16, State.fetch16, h, State.runFetched]

/-- The step stops where the second halfword of a 32-bit instruction cannot be fetched, in a delay slot or not. -/
theorem step_second_fetch_fault {f : Fault} (hexc : s.exc = none) (hm : s.isaMode = true) (hf : HalfFetchable s s.pc)
    (hw : Code.isWide (s.readHalf s.pc) = true) (h : s.checkFetch (s.pc + 2) 2 = .error f) : step s = .fault f := by
  have h2 : s.fetch16 (s.pc + 2) = .error f := by simp only [State.fetch16, h]
  simp only [step_mips16e hexc hm, State.fetchCode16, hf.fetch16, hw, if_true, h2, State.runFetched]

/-- The step stops where the word of 32-bit mode cannot be fetched. -/
theorem step_word_fetch_fault {f : Fault} (hexc : s.exc = none) (hm : s.isaMode = false)
    (hal : wordAligned s.pc = true) (h : s.checkFetch s.pc 4 = .error f) : step s = .fault f := by
  simp only [step_mips32 hexc hm hal, State.fetchCode32, h, State.runFetched]

end

/-- Settles O11: each fetch of the step fails its check, on `Admit` or on the written set. -/
theorem fetchStopsOutsideMemoryAndOnWrittenBytes : Obligations.FetchStopsOutsideMemoryAndOnWrittenBytes := by
  intro s hexc
  refine ⟨fun hm => ⟨fun hun => ?_, fun hadmit hw => ?_, fun hf hwide => ⟨fun hun => ?_, fun hadmit hw => ?_⟩⟩,
    fun hm hal => ?_⟩
  · exact step_first_fetch_fault hexc hm (State.checkFetch_unadmitted hun)
  · exact step_first_fetch_fault hexc hm (State.checkFetch_written hadmit (exists_written_of_half hw))
  · exact step_second_fetch_fault hexc hm hf hwide (State.checkFetch_unadmitted hun)
  · have hnext : s.pc + 3 = s.pc + 2 + 1 := by bv_omega
    rw [hnext] at hw
    exact step_second_fetch_fault hexc hm hf hwide (State.checkFetch_written hadmit (exists_written_of_half hw))
  · have hal' : wordAligned s.pc = true := by simp [wordAligned, hal]
    exact ⟨fun hun => step_word_fetch_fault hexc hm hal' (State.checkFetch_unadmitted hun),
      fun hadmit hw => step_word_fetch_fault hexc hm hal' (State.checkFetch_written hadmit hw)⟩

/-! ## The record of what was stored (20_memory R63) -/

/-- The written set forgets no address and names every byte that changed. -/
structure RecordsWrites (s t : State) : Prop where
  keeps : ∀ x, x ∈ s.written → x ∈ t.written
  records : ∀ a : Word, t.readByte a ≠ s.readByte a → a.toNat ∈ t.written

theorem RecordsWrites.of_sameMem {s t : State} (h : SameMem s t) : RecordsWrites s t := by
  obtain ⟨hbytes, hwritten⟩ := h
  exact ⟨fun x hx => hwritten ▸ hx, fun a ha => absurd (hbytes a) ha⟩

theorem RecordsWrites.trans {s t u : State} (h1 : RecordsWrites s t) (h2 : RecordsWrites t u) : RecordsWrites s u := by
  refine ⟨fun x hx => h2.keeps x (h1.keeps x hx), fun a ha => ?_⟩
  by_cases hat : t.readByte a = s.readByte a
  · exact h2.records a (hat ▸ ha)
  · exact h2.keeps _ (h1.records a hat)

theorem StoresOnly.recordsWrites {base : Word} {n : Nat} {s t : State} (h : StoresOnly base n s t) :
    RecordsWrites s t := by
  obtain ⟨hothers, hwritten⟩ := h
  refine ⟨fun x hx => (hwritten x).mpr (.inl hx), fun a ha => (hwritten _).mpr (.inr ?_)⟩
  by_contra hout
  exact ha (hothers a fun k hk hak => hout ⟨k, hk, by rw [hak]⟩)

theorem StoredWords.recordsWrites {s t : State} {slot : Nat → Word} {ws : List Word} (h : StoredWords s slot ws t) :
    RecordsWrites s t := by
  refine ⟨fun x hx => (h.written x).mpr (.inl hx), fun a ha => (h.written _).mpr (.inr ?_)⟩
  by_contra hout
  exact ha (h.others a fun k hk j hj haj => hout ⟨k, hk, j, hj, by rw [haj]⟩)

/-- RESTORE's loads leave memory alone. -/
theorem LoadedFrame.sameMem {s t : State} {top : Word} {rs : List Gpr} (h : LoadedFrame s top rs t) : SameMem s t :=
  ⟨fun a => by simp only [State.readByte, h.mem], h.written⟩

/-- Every instruction records what it stores. -/
theorem Effect.recordsWrites {i : Instr} {s t : State} (h : Effect i s t) : RecordsWrites s t := by
  cases h with
  | stores a bs =>
    have hend : SameMem (s.writeBytes a bs) ((s.writeBytes a bs).advance 4) := by simp [SameMem]
    exact (s.writeBytes_storesOnly a bs).recordsWrites.trans (.of_sameMem hend)
  | saves s1 s2 _ _ sp len _ h1 h2 =>
    have hend : SameMem s2 ((s2.writeGpr regSp sp).advance len) := by simp [SameMem]
    exact (h1.recordsWrites.trans h2.recordsWrites).trans (.of_sameMem hend)
  | restores s1 _ sp len _ _ _ _ _ _ h =>
    have hend : SameMem s1 ((s1.writeGpr regSp sp).advance len) := by simp [SameMem]
    exact (RecordsWrites.of_sameMem h.sameMem).trans (.of_sameMem hend)
  | branch c off => exact .of_sameMem (by cases c <;> simp [SameMem])
  | raisesDebug kind code _ => exact .of_sameMem ⟨fun _ => rfl, rfl⟩
  | _ => exact .of_sameMem (by simp [SameMem])

/-- Settles O54: the instruction records its stores, and the end of the step stores nothing. -/
theorem memoryChangesOnlyWhereRecorded : Obligations.MemoryChangesOnlyWhereRecorded := by
  intro s t hstep
  have h : RecordsWrites s t := by
    obtain ⟨_, ⟨_, _, rfl⟩ | ⟨c, i, u, _, _, _, _, hex, hret⟩⟩ := step_next s t hstep
    · exact .of_sameMem ⟨fun _ => rfl, rfl⟩
    · have hu := (exec_effect i s u hex).recordsWrites
      rcases u.retire_next _ t hret with ⟨rfl, _⟩ | ⟨d, _, _, _, rfl⟩
      · exact hu
      · exact hu.trans (.of_sameMem ⟨fun _ => rfl, rfl⟩)
  exact ⟨h.keeps, h.records⟩

/-! ## Alignment (20_memory R55) -/

/-- The alignment test of a word access is that of the statements (20_memory R55). -/
theorem wordAligned_iff (a : Word) : wordAligned a = true ↔ a.toNat % 4 = 0 := by
  simp only [wordAligned, beq_iff_eq, ← BitVec.toNat_inj, BitVec.extractLsb'_toNat, Nat.shiftRight_zero]
  simp

theorem halfAligned_iff (a : Word) : halfAligned a = true ↔ a.toNat % 2 = 0 := by
  simp only [halfAligned, beq_iff_eq, ← BitVec.toNat_inj, BitVec.extractLsb'_toNat, Nat.shiftRight_zero]
  simp

/-! ## Byte order (20_memory R52, R54) -/

theorem toNat_append_byte {n : Nat} (x : BitVec n) (b : Byte) : (x ++ b).toNat = x.toNat * 256 + b.toNat := by
  rw [BitVec.toNat_append, ← Nat.shiftLeft_add_eq_or_of_lt b.isLt, Nat.shiftLeft_eq]

theorem toNat_bytesToHalf (be : Bool) (b0 b1 : Byte) :
    (bytesToHalf be b0 b1).toNat =
      if be then b0.toNat * 256 + b1.toNat else b1.toNat * 256 + b0.toNat := by
  cases be
  · exact toNat_append_byte b1 b0
  · exact toNat_append_byte b0 b1

/-- The natural number four bytes make, the first the most significant. -/
theorem toNat_append_four (b3 b2 b1 b0 : Byte) : (b3 ++ b2 ++ b1 ++ b0).toNat =
    b3.toNat * 16777216 + b2.toNat * 65536 + b1.toNat * 256 + b0.toNat := by
  rw [toNat_append_byte, toNat_append_byte, toNat_append_byte]
  omega

theorem toNat_bytesToWord (be : Bool) (b0 b1 b2 b3 : Byte) :
    (bytesToWord be b0 b1 b2 b3).toNat =
      if be then b0.toNat * 16777216 + b1.toNat * 65536 + b2.toNat * 256 + b3.toNat
      else b3.toNat * 16777216 + b2.toNat * 65536 + b1.toNat * 256 + b0.toNat := by
  cases be
  · exact toNat_append_four b3 b2 b1 b0
  · exact toNat_append_four b0 b1 b2 b3

/-- The second halfword of a word in memory: its low half in big-endian order, its high half otherwise (R54). -/
theorem bytesToHalf_wordToBytes (be : Bool) (w : Word) :
    bytesToHalf be (wordToBytes be w)[2] (wordToBytes be w)[3] =
      if be then w.extractLsb' 0 16 else w.extractLsb' 16 16 := by
  cases be
  · exact BitVec.extractLsb'_append_extractLsb'_eq_extractLsb' rfl
  · exact BitVec.extractLsb'_append_extractLsb'_eq_extractLsb' rfl

/-- The bytes of a stored word are read back. -/
theorem State.readByte_writeBytes_word (s : State) (a w : Word) (k : Nat) (hk : k < 4) :
    (s.writeBytes a (wordToBytes s.cfg.bigEndian w)).readByte (byteAddr a k) =
      (wordToBytes s.cfg.bigEndian w)[k]'(by simpa using hk) :=
  s.readByte_writeBytes a _ k (by simpa using hk) (by simp)

/-- The first byte of a stored word (R52). -/
theorem State.readByte_writeBytes_word_first (s : State) (a w : Word) :
    (s.writeBytes a (wordToBytes s.cfg.bigEndian w)).readByte a =
      if s.cfg.bigEndian then w.extractLsb' 24 8 else w.extractLsb' 0 8 := by
  have h0 := s.readByte_writeBytes_word a w 0 (by omega)
  rw [byteAddr, BitVec.add_zero] at h0
  rw [h0]
  cases s.cfg.bigEndian <;> rfl

/-- The second halfword of a stored word (R54). -/
theorem State.readHalf_writeBytes_word_second (s : State) (a w : Word) :
    (s.writeBytes a (wordToBytes s.cfg.bigEndian w)).readHalf (a + 2) =
      if s.cfg.bigEndian then w.extractLsb' 0 16 else w.extractLsb' 16 16 := by
  have h2 : byteAddr (a + 2) 0 = byteAddr a 2 := by simp [byteAddr]
  have h3 : byteAddr (a + 2) 1 = byteAddr a 3 := by simp only [byteAddr]; bv_omega
  rw [State.readHalf_eq, h2, h3, s.readByte_writeBytes_word a w 2 (by omega),
    s.readByte_writeBytes_word a w 3 (by omega), State.writeBytes_cfg, bytesToHalf_wordToBytes]

/-- A word store to a multiple of 4 that completes has stored the word's four bytes. -/
theorem State.finishStore_storeWord_next {s t : State} {a w : Word} (hal : a.toNat % 4 = 0)
    (h : s.finishStore (s.storeWord a w) = .next t) :
    t = (s.writeBytes a (wordToBytes s.cfg.bigEndian w)).advance 4 := by
  rw [State.storeWord_eq, if_pos ((wordAligned_iff a).mpr hal)] at h
  split at h
  · simpa [State.finishStore] using h.symm
  · cases h

/-- Settles O59: a read is the number its bytes make, and SW lays its bytes out in the same order. -/
theorem byteOrderOfMemory : Obligations.ByteOrderOfMemory := by
  refine ⟨fun s a => ⟨toNat_bytesToHalf _ _ _, toNat_bytesToWord _ _ _ _ _⟩, ?_⟩
  rintro rx ry off s t a w rfl rfl hal hex
  obtain rfl := State.finishStore_storeWord_next hal hex
  exact ⟨s.readByte_writeBytes_word_first _ _, s.readHalf_writeBytes_word_second _ _⟩

end Sys2Proof.Machine
end
section
/-! SUPPORT. Accesses and stack transfers that `Admit` refuses (20_memory R57, 46_save_restore R257): O41. -/

namespace Sys2Proof.Machine

section
variable {s : State}

/-! ## Loads and stores that are aligned and not admitted (20_memory R55, R57) -/

theorem State.loadByte_unadmitted {a : Word} (h : admits s.cfg a 1 .load = false) :
    s.loadByte a = .error (.fault (.unmappedAccess a .load)) := by
  rw [State.loadByte_eq, if_neg (by simp [h])]

theorem State.loadHalf_unadmitted {a : Word} (hal : a.toNat % 2 = 0) (h : admits s.cfg a 2 .load = false) :
    s.loadHalf a = .error (.fault (.unmappedAccess a .load)) := by
  rw [State.loadHalf_eq, if_pos ((halfAligned_iff a).mpr hal), if_neg (by simp [h])]

theorem State.loadWord_unadmitted {a : Word} (hal : a.toNat % 4 = 0) (h : admits s.cfg a 4 .load = false) :
    s.loadWord a = .error (.fault (.unmappedAccess a .load)) := by
  rw [State.loadWord_eq, if_pos ((wordAligned_iff a).mpr hal), if_neg (by simp [h])]

theorem State.storeByte_unadmitted {a : Word} (b : Byte) (h : admits s.cfg a 1 .store = false) :
    s.storeByte a b = .error (.fault (.unmappedAccess a .store)) := by
  rw [State.storeByte_eq, if_neg (by simp [h])]

theorem State.storeHalf_unadmitted {a : Word} (v : Half) (hal : a.toNat % 2 = 0)
    (h : admits s.cfg a 2 .store = false) : s.storeHalf a v = .error (.fault (.unmappedAccess a .store)) := by
  rw [State.storeHalf_eq, if_pos ((halfAligned_iff a).mpr hal), if_neg (by simp [h])]

theorem State.storeWord_unadmitted {a : Word} (v : Word) (hal : a.toNat % 4 = 0)
    (h : admits s.cfg a 4 .store = false) : s.storeWord a v = .error (.fault (.unmappedAccess a .store)) := by
  rw [State.storeWord_eq, if_pos ((wordAligned_iff a).mpr hal), if_neg (by simp [h])]

/-- The base of the PC-relative load, as the statements write it (45_load_store R225). -/
theorem pcBase_eq_and (pc : Word) : pcBase pc = pc &&& 0xFFFFFFFC := by
  apply BitVec.eq_of_getLsbD_eq
  intro k hk
  simp only [pcBase, BitVec.getLsbD_append, BitVec.getLsbD_extractLsb', BitVec.getLsbD_and]
  interval_cases k <;> simp

/-- The load or store of a register-based address, by its width. -/
theorem exec_unadmitted_rx {rx ry : BitVec 3} {off : BitVec 16} {i : Instr} {n : Nat} {kind : AccessKind}
    (hi : (n = 1 ∧ kind = .load ∧ (i = .lb ry off rx ∨ i = .lbu ry off rx)) ∨
      (n = 2 ∧ kind = .load ∧ (i = .lh ry off rx ∨ i = .lhu ry off rx)) ∨
      (n = 4 ∧ kind = .load ∧ i = .lwRyRx ry off rx) ∨
      (n = 1 ∧ kind = .store ∧ i = .sb ry off rx) ∨ (n = 2 ∧ kind = .store ∧ i = .sh ry off rx) ∨
      (n = 4 ∧ kind = .store ∧ i = .swRyRx ry off rx))
    (hal : (s.addrRx rx off).toNat % n = 0) (hun : admits s.cfg (s.addrRx rx off) n kind = false) :
    exec i s = .fault (.unmappedAccess (s.addrRx rx off) kind) := by
  rcases hi with ⟨rfl, rfl, rfl | rfl⟩ | ⟨rfl, rfl, rfl | rfl⟩ | ⟨rfl, rfl, rfl⟩ | ⟨rfl, rfl, rfl⟩ | ⟨rfl, rfl, rfl⟩ |
    ⟨rfl, rfl, rfl⟩
  · rw [exec, execLb, State.loadByte_unadmitted hun]; rfl
  · rw [exec, execLbu, State.loadByte_unadmitted hun]; rfl
  · rw [exec, execLh, State.loadHalf_unadmitted hal hun]; rfl
  · rw [exec, execLhu, State.loadHalf_unadmitted hal hun]; rfl
  · rw [exec, execLwRyRx, State.loadWord_unadmitted hal hun]; rfl
  · rw [exec, execSb, State.storeByte_unadmitted _ hun]; rfl
  · rw [exec, execSh, State.storeHalf_unadmitted _ hal hun]; rfl
  · rw [exec, execSwRyRx, State.storeWord_unadmitted _ hal hun]; rfl

/-- The word load or store of a stack address. -/
theorem exec_unadmitted_sp {rx : BitVec 3} {off : BitVec 16} {i : Instr} {kind : AccessKind}
    (hi : (kind = .load ∧ i = .lwRxSp rx off) ∨ (kind = .store ∧ (i = .swRxSp rx off ∨ i = .swRaSp off)))
    (hal : (s.addrSp off).toNat % 4 = 0) (hun : admits s.cfg (s.addrSp off) 4 kind = false) :
    exec i s = .fault (.unmappedAccess (s.addrSp off) kind) := by
  rcases hi with ⟨rfl, rfl⟩ | ⟨rfl, rfl | rfl⟩
  · rw [exec, execLwRxSp, State.loadWord_unadmitted hal hun]; rfl
  · rw [exec, execSwRxSp, State.storeWord_unadmitted _ hal hun]; rfl
  · rw [exec, execSwRaSp, State.storeWord_unadmitted _ hal hun]; rfl

/-- The PC-relative word load. -/
theorem exec_unadmitted_pc {rx : BitVec 3} {off : BitVec 16} (hal : (s.addrPc off).toNat % 4 = 0)
    (hun : admits s.cfg (s.addrPc off) 4 .load = false) :
    exec (.lwRxPc rx off) s = .fault (.unmappedAccess (s.addrPc off) .load) := by
  rw [exec, execLwRxPc, State.loadWord_unadmitted hal hun]; rfl

/-! ## The slots of a frame lie apart (46_save_restore R253 to R256) -/

/-- Words at rising addresses share no byte. -/
theorem argSlot_apart (b : Word) {i j x y : Nat} (hij : i < j) (hj : j < 1073741824) (hx : x < 4) (hy : y < 4) :
    byteAddr (argSlot b i) x ≠ byteAddr (argSlot b j) y := by
  simp only [byteAddr, argSlot, ne_eq]; bv_omega

/-- Words at falling addresses share no byte. -/
theorem frameSlot_apart (top : Word) {i j x y : Nat} (hij : i < j) (hj : j < 1073741824) (hx : x < 4) (hy : y < 4) :
    byteAddr (frameSlot top i) x ≠ byteAddr (frameSlot top j) y := by
  simp only [byteAddr, frameSlot, ne_eq]; bv_omega

/-- A word at or above an address shares no byte with a word below it. -/
theorem argSlot_frameSlot_apart (sp : Word) {i j x y : Nat} (hij : i + j < 1073741823) (hx : x < 4) (hy : y < 4) :
    byteAddr (argSlot sp i) x ≠ byteAddr (frameSlot sp j) y := by
  simp only [byteAddr, argSlot, frameSlot, ne_eq]; bv_omega

/-- The stores of SAVE, arguments upward and then the others downward, leave the frame of the statements. -/
theorem FrameStored.of_storedWords {s1 t : State} {args regs : List Gpr} (hlen : args.length + regs.length < 1073741824)
    (h1 : StoredWords s (argSlot (s.readGpr regSp)) (args.map s.readGpr) s1)
    (h2 : StoredWords s1 (frameSlot (s.readGpr regSp)) (regs.map s.readGpr) t) : FrameStored s args regs t := by
  have hcfg : t.cfg = s1.cfg := by rw [h2.onlyMem]
  refine ⟨fun k hk => ?_, fun k hk => ?_, fun a harg hreg => ?_, fun x => ?_⟩
  · have hstored := h1.stored (fun i j hij hj x y => argSlot_apart _ hij (by simp at hj; omega)) k (by simpa using hk)
    rw [List.getElem_map] at hstored
    rw [← hstored]
    refine State.readWord_congr _ hcfg fun x hx => h2.others _ fun j hj y hy => ?_
    exact argSlot_frameSlot_apart _ (by simp at hj; omega) hx hy
  · have hstored := h2.stored (fun i j hij hj x y => frameSlot_apart _ hij (by simp at hj; omega)) k (by simpa using hk)
    rwa [List.getElem_map] at hstored
  · rw [h2.others a (by simpa using hreg), h1.others a (by simpa using harg)]
  · rw [h2.written, h1.written, or_assoc]
    simp

/-! ## Transfers that stop (46_save_restore R257, D24) -/

/-- The arguments of SAVE stop at the first slot not admitted. -/
theorem State.storeArgs_stops {bottom : Word} {rs : List Gpr} {k : Nat} (hal : wordAligned bottom = true)
    (hun : FirstUnadmitted s.cfg (argSlot bottom) rs.length k .store) :
    ∃ t, s.storeArgs bottom rs = .error (.fault (.unmappedAccess (argSlot bottom k) .store), t) ∧
      StoredWords s (argSlot bottom) ((rs.take k).map s.readGpr) t := by
  rcases s.storeArgs_spec bottom rs with ⟨_, _, _, hall⟩ | ⟨tr, t, l, he, _, hst, ⟨hmis, _⟩ | ⟨_, hfirst, rfl⟩⟩
  · obtain ⟨hk, -, hno⟩ := hun
    rw [(hall k hk).2] at hno; cases hno
  · rw [hal] at hmis; cases hmis
  · obtain rfl := hun.unique hfirst
    exact ⟨t, he, by rwa [List.map_take]⟩

/-- The other registers of SAVE stop at the first slot not admitted. -/
theorem State.storeFrame_stops {top : Word} {rs : List Gpr} {k : Nat} (hal : wordAligned top = true)
    (hun : FirstUnadmitted s.cfg (frameSlot top) rs.length k .store) :
    ∃ t, s.storeFrame top rs = .error (.fault (.unmappedAccess (frameSlot top k) .store), t) ∧
      StoredWords s (frameSlot top) ((rs.take k).map s.readGpr) t := by
  rcases s.storeFrame_spec top rs with ⟨_, _, _, hall⟩ | ⟨tr, t, l, he, _, hst, ⟨hmis, _⟩ | ⟨_, hfirst, rfl⟩⟩
  · obtain ⟨hk, -, hno⟩ := hun
    rw [(hall k hk).2] at hno; cases hno
  · rw [hal] at hmis; cases hmis
  · obtain rfl := hun.unique hfirst
    exact ⟨t, he, by rwa [List.map_take]⟩

/-- The registers of RESTORE stop at the first slot not admitted. -/
theorem State.loadFrame_stops {top : Word} {rs : List Gpr} {k : Nat} (hal : wordAligned top = true)
    (hun : FirstUnadmitted s.cfg (frameSlot top) rs.length k .load) :
    ∃ t, s.loadFrame top rs = .error (.fault (.unmappedAccess (frameSlot top k) .load), t) ∧
      LoadedFrame s top (rs.take k) t := by
  rcases s.loadFrame_spec top rs with ⟨_, _, _, hall⟩ | ⟨tr, t, l, he, _, hld, ⟨hmis, _⟩ | ⟨_, hfirst, rfl⟩⟩
  · obtain ⟨hk, -, hno⟩ := hun
    rw [(hall k hk).2] at hno; cases hno
  · rw [hal] at hmis; cases hmis
  · obtain rfl := hun.unique hfirst
    exact ⟨t, he, hld⟩

/-- The arguments of SAVE are all stored where every slot is admitted. -/
theorem State.storeArgs_ok {bottom : Word} {rs : List Gpr} (hal : wordAligned bottom = true)
    (hadmit : ∀ j, j < rs.length → admits s.cfg (argSlot bottom j) 4 .store = true) :
    ∃ t, s.storeArgs bottom rs = .ok t ∧ StoredWords s (argSlot bottom) (rs.map s.readGpr) t := by
  rcases s.storeArgs_spec bottom rs with ⟨t, he, hst, _⟩ | ⟨tr, t, l, _, _, _, ⟨hmis, _⟩ | ⟨_, ⟨hl, _, hno⟩, _⟩⟩
  · exact ⟨t, he, hst⟩
  · rw [hal] at hmis; cases hmis
  · rw [hadmit l hl] at hno; cases hno

/-- The state a stopped SAVE reports. -/
theorem SaveStops.of_frameStored {i : Instr} {slot : Word} {args regs : List Gpr} {s1 t : State}
    (hex : exec i s = .fault (.unmappedTransfer slot .store { t with delay := none }))
    (hf : FrameStored s args regs t) {slot1 slot2 : Nat → Word} {ws1 ws2 : List Word}
    (h1 : StoredWords s slot1 ws1 s1) (h2 : StoredWords s1 slot2 ws2 t) : SaveStops i s slot args regs := by
  obtain ⟨hmode, -⟩ := h1.sameControl.trans h2.sameControl
  refine ⟨_, hex, hf, h2.pc.trans h1.pc, hmode, rfl, fun r _ => ?_, h1.sameHiLo.trans h2.sameHiLo,
    h1.sameSystem.trans h2.sameSystem⟩
  exact (h2.readGpr r).trans (h1.readGpr r)

/-- SAVE stops at its first argument slot not admitted. -/
theorem saveFrame_stops_at_arg {i : Instr} {size len : Word} {args regs : List Gpr} {k : Nat}
    (hi : exec i s = s.saveFrame size len args regs) (hal : wordAligned (s.readGpr regSp) = true)
    (hlen : args.length < 1073741824)
    (hun : FirstUnadmitted s.cfg (argSlot (s.readGpr regSp)) args.length k .store) :
    SaveStops i s (argSlot (s.readGpr regSp) k) (args.take k) [] := by
  obtain ⟨t, he, hst⟩ := State.storeArgs_stops hal hun
  have hnil := StoredWords.nil t (frameSlot (s.readGpr regSp))
  refine SaveStops.of_frameStored ?_ (.of_storedWords (by simp; omega) hst hnil) hst hnil
  rw [hi, State.saveFrame, he]; rfl

/-- SAVE, its arguments stored, stops at its first slot below the stack pointer not admitted. -/
theorem saveFrame_stops_at_slot {i : Instr} {size len : Word} {args regs : List Gpr} {k : Nat}
    (hi : exec i s = s.saveFrame size len args regs) (hal : wordAligned (s.readGpr regSp) = true)
    (hlen : args.length + regs.length < 1073741824)
    (hargs : ∀ j, j < args.length → admits s.cfg (argSlot (s.readGpr regSp) j) 4 .store = true)
    (hun : FirstUnadmitted s.cfg (frameSlot (s.readGpr regSp)) regs.length k .store) :
    SaveStops i s (frameSlot (s.readGpr regSp) k) args (regs.take k) := by
  obtain ⟨s1, he1, h1⟩ := State.storeArgs_ok hal hargs
  have hcfg : s1.cfg = s.cfg := by rw [h1.onlyMem]
  obtain ⟨t, he2, h2⟩ := State.storeFrame_stops (s := s1) hal (hcfg ▸ hun)
  have hregs : s1.readGpr = s.readGpr := funext h1.readGpr
  rw [hregs] at h2
  refine SaveStops.of_frameStored ?_ (.of_storedWords (by simp; omega) h1 h2) h1 h2
  rw [hi, State.saveFrame, he1]
  simp only [he2, finishFrame_unmapped]

end

/-! ## The registers and sizes of a frame (46_save_restore R251 to R256) -/

/-- The transferred registers stand in the order of `linkAndFrameRegs`, the `xsregs` ones reversed. -/
theorem frameRegs_sublist (ra s0 s1 : Bool) (xs : BitVec 3) (n : Nat) :
    (frameRegs ra s0 s1 (xsRegs xs) (staticRegs n)).Sublist [31, 30, 23, 22, 21, 20, 19, 18, 17, 16, 7, 6, 5, 4] := by
  have hopt : ∀ (c : Bool) (r : Gpr), (if c then [r] else []).Sublist [r] := by intro c r; cases c <;> simp
  have hxs : (xsRegs xs).Sublist [30, 23, 22, 21, 20, 19, 18] := (List.take_sublist _ _).reverse
  have hst : (staticRegs n).Sublist [7, 6, 5, 4] := List.take_sublist _ _
  exact ((((hopt ra regRa).append hxs).append (hopt s1 17)).append (hopt s0 16)).append hst

theorem frameRegs_nodup (ra s0 s1 : Bool) (xs : BitVec 3) (n : Nat) :
    (frameRegs ra s0 s1 (xsRegs xs) (staticRegs n)).Nodup :=
  List.Nodup.sublist (frameRegs_sublist ra s0 s1 xs n) (by decide)

theorem frameRegs_length_le (ra s0 s1 : Bool) (xs : BitVec 3) (n : Nat) :
    (frameRegs ra s0 s1 (xsRegs xs) (staticRegs n)).length ≤ 14 :=
  (frameRegs_sublist ra s0 s1 xs n).length_le

theorem zero_not_mem_frameRegs (ra s0 s1 : Bool) (xs : BitVec 3) (n : Nat) :
    (0 : Gpr) ∉ frameRegs ra s0 s1 (xsRegs xs) (staticRegs n) :=
  fun h => absurd (mem_of_mem_frameRegs h) (by decide)

theorem regSp_not_mem_frameRegs (ra s0 s1 : Bool) (xs : BitVec 3) (n : Nat) :
    regSp ∉ frameRegs ra s0 s1 (xsRegs xs) (staticRegs n) :=
  fun h => absurd (mem_of_mem_frameRegs h) (by decide)

/-- The registers of the 16-bit forms, in the order of transfer (R253, R255). -/
theorem frameRegs_short (ra s0 s1 : Bool) : frameRegs ra s0 s1 (xsRegs 0) (staticRegs 0) =
    (if ra then [31] else []) ++ (if s1 then [17] else []) ++ (if s0 then [16] else []) := by
  simp [frameRegs, xsRegs, staticRegs]

/-- The table gives at most four argument registers (R251). -/
theorem aregsTable_args_le {aregs : BitVec 4} {args astatic : Nat} (h : aregsTable aregs = some (args, astatic)) :
    args ≤ 4 := by
  have hall : ∀ a : BitVec 4, ∀ p ∈ aregsTable a, p.1 ≤ 4 := by decide
  exact hall aregs _ h

theorem argRegs_length {args : Nat} (h : args ≤ 4) : (argRegs args).length = args := by
  simpa [argRegs] using h

theorem argRegs_take {args k : Nat} (h : k ≤ args) : (argRegs args).take k = [4, 5, 6, 7].take k := by
  rw [argRegs, List.take_take, Nat.min_eq_left h]

theorem frameBytes4_aligned (f : BitVec 4) : (frameBytes4 f).toNat % 4 = 0 := by revert f; decide

theorem frameBytes8_aligned (f : BitVec 8) : (frameBytes8 f).toNat % 4 = 0 := by
  simp only [frameBytes8]; bv_omega

/-- A frame of whole words above a multiple of 4 ends at one. -/
theorem wordAligned_add_of_aligned {sp size : Word} (hsp : sp.toNat % 4 = 0) (hsize : size.toNat % 4 = 0) :
    wordAligned (sp + size) = true := by
  rw [wordAligned_iff, BitVec.toNat_add]
  omega

/-- No count of transfers comes near the slots that a 32-bit address can name. -/
theorem frame_length_lt {args : Nat} (hargs : args ≤ 4) (ra s0 s1 : Bool) (xs : BitVec 3) (n : Nat) :
    (argRegs args).length + (frameRegs ra s0 s1 (xsRegs xs) (staticRegs n)).length < 1073741824 := by
  have hregs := frameRegs_length_le ra s0 s1 xs n
  rw [argRegs_length hargs]
  omega

/-! ## SAVE and RESTORE as their transfers, and where RESTORE stops (46_save_restore R253 to R257) -/

section
variable {s : State} {i : Instr}

theorem exec_save (ra s0 s1 : Bool) (framesize : BitVec 4) : exec (.save ra s0 s1 framesize) s =
    s.saveFrame (frameBytes4 framesize) 2 (argRegs 0) (frameRegs ra s0 s1 (xsRegs 0) (staticRegs 0)) := rfl

theorem exec_restore (ra s0 s1 : Bool) (framesize : BitVec 4) : exec (.restore ra s0 s1 framesize) s =
    s.restoreFrame (frameBytes4 framesize) 2 (frameRegs ra s0 s1 (xsRegs 0) (staticRegs 0)) := rfl

theorem exec_saveExt {aregs : BitVec 4} {args astatic : Nat} (h : aregsTable aregs = some (args, astatic))
    (ra s0 s1 : Bool) (xs : BitVec 3) (framesize : BitVec 8) : exec (.saveExt ra s0 s1 xs aregs framesize) s =
    s.saveFrame (frameBytes8 framesize) 4 (argRegs args) (frameRegs ra s0 s1 (xsRegs xs) (staticRegs astatic)) := by
  simp only [exec, execSaveExt, h]

theorem exec_restoreExt {aregs : BitVec 4} {args astatic : Nat} (h : aregsTable aregs = some (args, astatic))
    (ra s0 s1 : Bool) (xs : BitVec 3) (framesize : BitVec 8) : exec (.restoreExt ra s0 s1 xs aregs framesize) s =
    s.restoreFrame (frameBytes8 framesize) 4 (frameRegs ra s0 s1 (xsRegs xs) (staticRegs astatic)) := by
  simp only [exec, execRestoreExt, h]

/-- RESTORE stops at its first slot not admitted. -/
theorem restoreFrame_stops {size len : Word} {ra s0 s1 : Bool} {xs : BitVec 3} {n k : Nat}
    (hi : exec i s = s.restoreFrame size len (frameRegs ra s0 s1 (xsRegs xs) (staticRegs n)))
    (hsp : (s.readGpr regSp).toNat % 4 = 0) (hsize : size.toNat % 4 = 0)
    (hun : FirstUnadmitted s.cfg (frameSlot (s.readGpr regSp + size))
      (frameRegs ra s0 s1 (xsRegs xs) (staticRegs n)).length k .load) :
    RestoreStops i s (frameSlot (s.readGpr regSp + size) k) (s.readGpr regSp + size)
      ((frameRegs ra s0 s1 (xsRegs xs) (staticRegs n)).take k) := by
  obtain ⟨t, he, hld⟩ := State.loadFrame_stops (wordAligned_add_of_aligned hsp hsize) hun
  have hnodup := (frameRegs_nodup ra s0 s1 xs n).sublist (List.take_sublist k _)
  have hzero := fun h => zero_not_mem_frameRegs ra s0 s1 xs n (List.mem_of_mem_take (i := k) h)
  have hstack := fun h => regSp_not_mem_frameRegs ra s0 s1 xs n (List.mem_of_mem_take (i := k) h)
  obtain ⟨hmode, -⟩ := hld.sameControl
  refine ⟨{ t with delay := none }, ?_, hld.loaded hnodup hzero, hld.pc, hmode, rfl, hld.others,
    hld.others _ hstack, hld.sameHiLo, hld.sameSystem, hld.sameMem⟩
  rw [hi, State.restoreFrame, he]; rfl

end

/-- Settles O41: each access fails its check, and each frame stops at the slot its statement names. -/
theorem unadmittedAccessFaults : Obligations.UnadmittedAccessFaults := by
  refine ⟨?_, ?_⟩
  · rintro rx ry off s i a n kind (⟨rfl, hi⟩ | ⟨rfl, rfl, hi⟩ | ⟨rfl, rfl, rfl, rfl⟩) hal hun
    · exact exec_unadmitted_rx hi hal hun
    · exact exec_unadmitted_sp hi hal hun
    · rw [← pcBase_eq_and] at hal hun ⊢
      exact exec_unadmitted_pc hal hun
  · rintro ra s0 s1 s sp regs k rfl hsp
    have hal := (wordAligned_iff _).mpr hsp
    refine ⟨?_, ?_⟩
    · rintro framesize top hregs rfl
      rw [← frameRegs_short] at hregs
      subst hregs
      refine ⟨fun hun => ?_, fun hun => ?_⟩
      · exact saveFrame_stops_at_slot (exec_save ..) hal (frame_length_lt (Nat.zero_le 4) ..) (by simp) hun
      · exact restoreFrame_stops (exec_restore ..) hsp (frameBytes4_aligned framesize) hun
    · rintro xsregs aregs framesize args astatic top htable hregs rfl
      obtain rfl : regs = frameRegs ra s0 s1 (xsRegs xsregs) (staticRegs astatic) := hregs
      have hargs := aregsTable_args_le htable
      have hargsLen := argRegs_length hargs
      refine ⟨fun hun => ?_, fun hadmit hun => ?_, fun hun => ?_⟩
      · rw [← argRegs_take hun.1.le]
        exact saveFrame_stops_at_arg (exec_saveExt htable ..) hal (by omega) (by rwa [hargsLen])
      · exact saveFrame_stops_at_slot (exec_saveExt htable ..) hal (frame_length_lt hargs ..)
          (fun j hj => hadmit j (hj.trans_eq hargsLen)) hun
      · exact restoreFrame_stops (exec_restoreExt htable ..) hsp (frameBytes8_aligned framesize) hun

end Sys2Proof.Machine
end

section
/-! SUPPORT. The words of 30_encoding R83 to R92, cut into their fields and put together again, and their fields
under the masks of the opcode table. -/

namespace Sys2Proof

open Machine

section
variable {op f : BitVec 5} {rx ry : BitVec 3} {hw1 hw2 : Half}

/-! ## Parts of appended bits -/

/-- The two parts of a bit vector rebuild it. -/
theorem extractLsb'_append_extractLsb'_self {n k : Nat} (x : BitVec (n + k)) :
    x.extractLsb' k n ++ x.extractLsb' 0 k = x :=
  (BitVec.extractLsb'_append_extractLsb'_eq_extractLsb' (Nat.zero_add k).symm).trans BitVec.extractLsb'_eq_self

theorem append_eq_append_iff {n k : Nat} {x x' : BitVec n} {y y' : BitVec k} :
    x ++ y = x' ++ y' ↔ x = x' ∧ y = y' := by
  refine ⟨fun h => ⟨?_, ?_⟩, fun ⟨hx, hy⟩ => by rw [hx, hy]⟩
  · have hleft := congrArg (BitVec.extractLsb' k n) h
    rwa [BitVec.extractLsb'_append_eq_left, BitVec.extractLsb'_append_eq_left] at hleft
  · have hright := congrArg (BitVec.extractLsb' 0 k) h
    rwa [BitVec.extractLsb'_append_eq_right, BitVec.extractLsb'_append_eq_right] at hright

/-- The leading one of three parts. -/
theorem extractLsb'_top {n k l : Nat} (a : BitVec n) (b : BitVec k) (c : BitVec l) :
    (a ++ b ++ c).extractLsb' (k + l) n = a := by
  rw [BitVec.extractLsb'_append_eq_of_le (by omega), Nat.add_sub_cancel, BitVec.extractLsb'_append_eq_left]

/-- The field whose number the decoder matched on. -/
theorem eq_ofNat_of_toNat {n k : Nat} {x : BitVec n} (h : x.toNat = k) : x = BitVec.ofNat n k := by
  rw [← h, BitVec.ofNat_toNat, BitVec.setWidth_eq]

/-! ## The fields of a halfword (30_encoding R83) -/

theorem Code.pack_extract_rx : (Code.pack op rx ry f).extractLsb' 8 3 = rx := Code.rx_pack ..
theorem Code.pack_extract_ry : (Code.pack op rx ry f).extractLsb' 5 3 = ry := Code.ry_pack ..
theorem Code.pack_extract_f5 : (Code.pack op rx ry f).extractLsb' 0 5 = f := Code.f5_pack ..

/-- Bit 7 of a halfword leads its field `ry`. -/
@[simp] theorem Code.pack_getElem_7 : (Code.pack op rx ry f)[7] = ry[2] := by
  simpa using Code.getLsbD_mid_pack op f rx ry 2 (by omega)

/-- Bit 4 of a halfword leads its field `f5`. -/
@[simp] theorem Code.pack_getElem_4 : (Code.pack op rx ry f)[4] = f[4] := by
  simpa using Code.getLsbD_low_pack op f rx ry 4 (by omega)

/-! ## Fields under a mask (30_encoding R92) -/

/-- Every halfword has the four fields of the figures (R83). -/
theorem Code.exists_pack (hw : Half) : ∃ op rx ry f, hw = Code.pack op rx ry f :=
  ⟨_, _, _, _, (Code.pack_fields hw).symm⟩

theorem Code.eq_iff_fields {hw hw' : Half} :
    hw = hw' ↔ Code.op hw = Code.op hw' ∧ Code.rx hw = Code.rx hw' ∧ Code.ry hw = Code.ry hw' ∧
      Code.f5 hw = Code.f5 hw' := by
  refine ⟨fun h => by simp [h], fun ⟨hop, hrx, hry, hf⟩ => ?_⟩
  rw [← Code.pack_fields hw, hop, hrx, hry, hf, Code.pack_fields]

/-- A halfword matches under a mask where each of its fields does. -/
theorem Code.pack_and_eq_iff (m v : Half) :
    Code.pack op rx ry f &&& m = v ↔
      op &&& m.extractLsb' 11 5 = v.extractLsb' 11 5 ∧ rx &&& m.extractLsb' 8 3 = v.extractLsb' 8 3 ∧
      ry &&& m.extractLsb' 5 3 = v.extractLsb' 5 3 ∧ f &&& m.extractLsb' 0 5 = v.extractLsb' 0 5 := by
  have hop := Code.op_pack op f rx ry
  have hrx := Code.rx_pack op f rx ry
  have hry := Code.ry_pack op f rx ry
  have hf := Code.f5_pack op f rx ry
  simp only [Code.op, Code.rx, Code.ry, Code.f5] at hop hrx hry hf
  simp only [Code.eq_iff_fields, Code.op, Code.rx, Code.ry, Code.f5, BitVec.extractLsb'_and, hop, hrx, hry, hf]

/-- Two halfwords match under a mask where each of them does. -/
theorem append_and_eq_iff (hw1 hw2 : Half) (m v : Word) :
    hw1 ++ hw2 &&& m = v ↔
      hw1 &&& m.extractLsb' 16 16 = v.extractLsb' 16 16 ∧ hw2 &&& m.extractLsb' 0 16 = v.extractLsb' 0 16 := by
  have halves (w : Word) : w.extractLsb' 16 16 ++ w.extractLsb' 0 16 = w :=
    extractLsb'_append_extractLsb'_self (n := 16) (k := 16) w
  conv_lhs => rw [← halves m, ← halves v, BitVec.and_append, append_eq_append_iff]

/-! ## The part of a field that a mask fixes -/

/-- A field whose bits are all fixed. -/
@[simp] theorem and_31 (x : BitVec 5) : x &&& 31#5 = x := BitVec.and_allOnes
@[simp] theorem and_7 (x : BitVec 3) : x &&& 7#3 = x := BitVec.and_allOnes

/-- The function of RRR and SHIFT, bits 1:0 (R98). -/
theorem and_3_eq_iff (f v : BitVec 5) (hv : v.toNat < 4) : f &&& 3#5 = v ↔ f.extractLsb' 0 2 = v.extractLsb' 0 2 := by
  revert f v; decide

/-- Bit 4, drawn as zero in RRI-A (R84). -/
theorem and_16_eq_zero_iff (f : BitVec 5) : f &&& 16#5 = 0#5 ↔ f.getLsbD 4 = false := by
  revert f; decide

/-- Bit 10 of JAL and JALX (R95) and bit 7 of SAVE and RESTORE (R97) lead their fields. -/
theorem and_4_eq_zero_iff (x : BitVec 3) : x &&& 4#3 = 0#3 ↔ x.getLsbD 2 = false := by
  revert x; decide

theorem and_4_eq_4_iff (x : BitVec 3) : x &&& 4#3 = 4#3 ↔ x.getLsbD 2 = true := by
  revert x; decide

theorem and_1_eq_zero_iff (x : BitVec 3) : x &&& 1#3 = 0#3 ↔ x.extractLsb' 0 1 = 0#1 := by
  revert x; decide

/-- RRI-A is packed with bit 4 zero. -/
theorem rria_f5_mask (x : BitVec 4) : (0#1 ++ x) &&& 16#5 = 0#5 := by
  revert x; decide

/-- RRR is packed with its function below `rz`. -/
theorem rrr_f5_mask (rz : BitVec 3) (v : BitVec 2) : (rz ++ v) &&& 3#5 = 0#3 ++ v := by
  revert rz v; decide

/-- SVRS is packed with `s` in bit 7. -/
theorem svrs_ry_mask (s a b : BitVec 1) : (s ++ a ++ b) &&& 4#3 = s ++ 0#2 := by
  revert s a b; decide

/-! ## The first halfwords (30_encoding R84) -/

theorem Code.op_rria (a : BitVec 5) (b : BitVec 7) (c : BitVec 4) : Code.op (a ++ b ++ c) = a :=
  extractLsb'_top a b c

theorem Code.op_extShift (a sa : BitVec 5) (z : BitVec 6) : Code.op (a ++ sa ++ z) = a := extractLsb'_top a sa z

theorem Code.op_extSvrs (a : BitVec 5) (xsregs : BitVec 3) (b aregs : BitVec 4) :
    Code.op (a ++ xsregs ++ b ++ aregs) = a :=
  (BitVec.extractLsb'_append_eq_of_le (by omega)).trans (extractLsb'_top a xsregs b)

theorem Code.extShift_low_eq_zero (sa : BitVec 5) : (0b11110#5 ++ sa ++ 0b000000#6).extractLsb' 0 6 = 0#6 :=
  BitVec.extractLsb'_append_eq_right

/-- Bits 15:11 and bit 10 of the JAL format. -/
theorem Code.jalFormat_fields (x : Bool) (a b : BitVec 5) :
    Code.op (0b00011#5 ++ BitVec.ofBool x ++ a ++ b) = 0b00011#5 ∧
      (0b00011#5 ++ BitVec.ofBool x ++ a ++ b).getLsbD 10 = x := by
  refine ⟨(BitVec.extractLsb'_append_eq_of_le (by omega)).trans (extractLsb'_top _ _ a), ?_⟩
  simp only [BitVec.getLsbD_append]
  simp

theorem Code.extShift_sa_field (a sa : BitVec 5) (z : BitVec 6) : (a ++ sa ++ z).extractLsb' 6 5 = sa :=
  (BitVec.extractLsb'_append_eq_of_le (by omega)).trans BitVec.extractLsb'_append_eq_right

/-- The fields of the first halfword of EXT-SVRS that are operands (R84). -/
theorem Code.extSvrs_fields (a : BitVec 5) (xsregs : BitVec 3) (b aregs : BitVec 4) :
    (a ++ xsregs ++ b ++ aregs).extractLsb' 8 3 = xsregs ∧ (a ++ xsregs ++ b ++ aregs).extractLsb' 0 4 = aregs := by
  refine ⟨?_, BitVec.extractLsb'_append_eq_right⟩
  rw [BitVec.extractLsb'_append_eq_of_le (by omega), BitVec.extractLsb'_append_eq_of_le (by omega)]
  exact BitVec.extractLsb'_append_eq_right

/-! ## The first halfwords under their masks (30_encoding R84) -/

theorem extend_mask_iff : hw1 &&& 0xf800#16 = 0xf000#16 ↔ Code.op hw1 = 0b11110#5 := by
  obtain ⟨op, rx, ry, f, rfl⟩ := Code.exists_pack hw1
  simp [Code.pack_and_eq_iff]

/-- EXT-SHIFT draws bits 5:0 of its first halfword as zero (R91). -/
theorem extShift_mask_iff :
    hw1 &&& 0xf83f#16 = 0xf000#16 ↔ Code.op hw1 = 0b11110#5 ∧ hw1.extractLsb' 0 6 = 0 := by
  obtain ⟨op, rx, ry, f, rfl⟩ := Code.exists_pack hw1
  have hlow : (Code.pack op rx ry f).extractLsb' 0 6 = ry.extractLsb' 0 1 ++ f := by
    apply BitVec.eq_of_getLsbD_eq
    intro i hi
    simp only [Code.pack, BitVec.getLsbD_append, BitVec.getLsbD_extractLsb']
    interval_cases i <;> simp
  have hzero : ry.extractLsb' 0 1 ++ f = 0#6 ↔ ry.extractLsb' 0 1 = 0#1 ∧ f = 0#5 :=
    append_eq_append_iff (x' := 0#1) (y' := 0#5)
  simp [Code.pack_and_eq_iff, hlow, hzero, and_1_eq_zero_iff]

/-- Bit 10 tells JAL from JALX (R95). -/
theorem jalFormat_mask_iff :
    (hw1 &&& 0xfc00#16 = 0x1800#16 ↔ Code.op hw1 = 0b00011#5 ∧ hw1.getLsbD 10 = false) ∧
      (hw1 &&& 0xfc00#16 = 0x1c00#16 ↔ Code.op hw1 = 0b00011#5 ∧ hw1.getLsbD 10 = true) := by
  have hbit : hw1.getLsbD 10 = (Code.rx hw1).getLsbD 2 := by simp [Code.rx]
  rw [hbit]
  obtain ⟨op, rx, ry, f, rfl⟩ := Code.exists_pack hw1
  simp only [Code.op_pack, Code.rx_pack, ← and_4_eq_zero_iff, ← and_4_eq_4_iff]
  simp [Code.pack_and_eq_iff]

/-! ## Fields put together again -/

/-- The words of an extended instruction with the immediate of R86. -/
theorem Code.extImm_imm16 (h1 : Code.op hw1 = 0b11110#5) :
    Code.extImm op rx ry (Code.imm16 hw1 (Code.pack op rx ry f)) = .pair hw1 (Code.pack op rx ry f) := by
  have hhigh : Code.extend16 (Code.imm16 hw1 (Code.pack op rx ry f)) = hw1 := by
    rw [Code.extend16, ← h1]
    apply BitVec.eq_of_getLsbD_eq
    intro i hi
    simp only [Code.op, Code.imm16, BitVec.getLsbD_append, BitVec.getLsbD_extractLsb']
    interval_cases i <;> simp
  have hlow : (Code.imm16 hw1 (Code.pack op rx ry f)).extractLsb' 0 5 = f :=
    BitVec.extractLsb'_append_eq_right.trans (Code.f5_pack op f rx ry)
  rw [Code.extImm, hhigh, hlow]

theorem zero_append_low4 (f : BitVec 5) (hf : f.getLsbD 4 = false) : 0#1 ++ f.extractLsb' 0 4 = f := by
  revert f; decide

/-- The words of ADDIU ry, rx, imm with the immediate of R87. -/
theorem Code.encode_addiuRyRxImm_imm15 (h1 : Code.op hw1 = 0b11110#5) (hf : f.getLsbD 4 = false) :
    encode (.addiuRyRxImm ry rx (Code.imm15 hw1 (Code.pack op rx ry f))) =
      .pair hw1 (Code.pack 0b01000#5 rx ry f) := by
  have hhigh : 0b11110#5 ++ (Code.imm15 hw1 (Code.pack op rx ry f)).extractLsb' 4 7 ++
      (Code.imm15 hw1 (Code.pack op rx ry f)).extractLsb' 11 4 = hw1 := by
    rw [← h1]
    apply BitVec.eq_of_getLsbD_eq
    intro i hi
    simp only [Code.op, Code.imm15, BitVec.getLsbD_append, BitVec.getLsbD_extractLsb']
    interval_cases i <;> simp
  have hlow : (Code.imm15 hw1 (Code.pack op rx ry f)).extractLsb' 0 4 = f.extractLsb' 0 4 :=
    BitVec.extractLsb'_append_eq_right.trans (Code.low_pack op f rx ry 0 4 (by omega))
  rw [encode, hhigh, hlow, zero_append_low4 f hf]

theorem zero_append_low2 (f : BitVec 5) (hf : f.extractLsb' 2 3 = 0) : 0#3 ++ f.extractLsb' 0 2 = f := by
  revert f; decide

/-- The words of EXT-SHIFT (R84). -/
theorem Code.extShift_sa (h1 : Code.op hw1 = 0b11110#5) (hz : hw1.extractLsb' 0 6 = 0) (hf : f.extractLsb' 2 3 = 0) :
    Code.extShift rx ry (hw1.extractLsb' 6 5) (f.extractLsb' 0 2) = .pair hw1 (Code.pack 0b00110#5 rx ry f) := by
  have hhigh : 0b11110#5 ++ hw1.extractLsb' 6 5 ++ 0b000000#6 = hw1 := by
    rw [← h1, ← BitVec.ofNat_eq_ofNat, ← hz]
    apply BitVec.eq_of_getLsbD_eq
    intro i hi
    simp only [Code.op, BitVec.getLsbD_append, BitVec.getLsbD_extractLsb']
    interval_cases i <;> simp
  rw [Code.extShift, hhigh, zero_append_low2 f hf]

/-- The bits of a SVRS halfword, in the two fields they stand in (R83). -/
theorem Code.svrs_bits_pack :
    (Code.pack op rx ry f).getLsbD 7 = ry.getLsbD 2 ∧ (Code.pack op rx ry f).getLsbD 6 = ry.getLsbD 1 ∧
    (Code.pack op rx ry f).getLsbD 5 = ry.getLsbD 0 ∧ (Code.pack op rx ry f).getLsbD 4 = f.getLsbD 4 ∧
    (Code.pack op rx ry f).extractLsb' 0 4 = f.extractLsb' 0 4 :=
  ⟨Code.getLsbD_mid_pack op f rx ry 2 (by omega), Code.getLsbD_mid_pack op f rx ry 1 (by omega),
    Code.getLsbD_mid_pack op f rx ry 0 (by omega), Code.getLsbD_low_pack op f rx ry 4 (by omega),
    Code.low_pack op f rx ry 0 4 (by omega)⟩

/-- The SVRS halfword of its bits. -/
theorem Code.svrs_of_bits {s : Bool} (hs : ry.getLsbD 2 = s) :
    Code.svrs s (ry.getLsbD 1) (ry.getLsbD 0) (f.getLsbD 4) (f.extractLsb' 0 4) = Code.pack 0b01100#5 0b100#3 ry f := by
  have hry (x : BitVec 3) : BitVec.ofBool (x.getLsbD 2) ++ BitVec.ofBool (x.getLsbD 1) ++ BitVec.ofBool (x.getLsbD 0) =
      x := by
    revert x; decide
  have hf (x : BitVec 5) : BitVec.ofBool (x.getLsbD 4) ++ x.extractLsb' 0 4 = x := by
    revert x; decide
  rw [Code.svrs, ← hs, hry, hf]

/-- The words of EXT-SVRS with the frame size of R88. -/
theorem Code.extSvrs_of_bits {s : Bool} (h1 : Code.op hw1 = 0b11110#5) (hs : ry.getLsbD 2 = s) :
    Code.extSvrs s (ry.getLsbD 1) (ry.getLsbD 0) (f.getLsbD 4) (hw1.extractLsb' 8 3) (hw1.extractLsb' 0 4)
      (Code.framesize8 hw1 (Code.pack op rx ry f)) = .pair hw1 (Code.pack 0b01100#5 0b100#3 ry f) := by
  have hhigh : 0b11110#5 ++ hw1.extractLsb' 8 3 ++ (Code.framesize8 hw1 (Code.pack op rx ry f)).extractLsb' 4 4 ++
      hw1.extractLsb' 0 4 = hw1 := by
    rw [← h1]
    apply BitVec.eq_of_getLsbD_eq
    intro i hi
    simp only [Code.op, Code.framesize8, BitVec.getLsbD_append, BitVec.getLsbD_extractLsb']
    interval_cases i <;> simp
  have hlow : (Code.framesize8 hw1 (Code.pack op rx ry f)).extractLsb' 0 4 = f.extractLsb' 0 4 :=
    BitVec.extractLsb'_append_eq_right.trans (Code.low_pack op f rx ry 0 4 (by omega))
  rw [Code.extSvrs, hhigh, hlow, Code.svrs_of_bits hs]

/-- The 6-bit code of BREAK and SDBBP in the two fields it stands in (R83). -/
theorem Code.brk_split (rx ry : BitVec 3) :
    BitVec.extractLsb' (n := 6) 3 3 (rx ++ ry) = rx ∧ BitVec.extractLsb' (n := 6) 0 3 (rx ++ ry) = ry :=
  ⟨BitVec.extractLsb'_append_eq_left, BitVec.extractLsb'_append_eq_right⟩

/-- The split field `r32` of MOVE r32, rz (R88). -/
theorem Code.moveR32Rz_split :
    Code.pack op rx (BitVec.extractLsb' (n := 5) 0 3 (f.extractLsb' 3 2 ++ ry))
      (BitVec.extractLsb' (n := 5) 3 2 (f.extractLsb' 3 2 ++ ry) ++ f.extractLsb' 0 3) = Code.pack op rx ry f := by
  have hry : BitVec.extractLsb' (n := 5) 0 3 (f.extractLsb' 3 2 ++ ry) = ry := BitVec.extractLsb'_append_eq_right
  have hhigh : BitVec.extractLsb' (n := 5) 3 2 (f.extractLsb' 3 2 ++ ry) = f.extractLsb' 3 2 :=
    BitVec.extractLsb'_append_eq_left
  have hf : f.extractLsb' 3 2 ++ f.extractLsb' 0 3 = f := extractLsb'_append_extractLsb'_self (n := 2) (k := 3) f
  rw [hry, hhigh, hf]

/-- The words of JAL and JALX with the target of R88. -/
theorem Code.jalFormat_target26 {x : Bool} (h1 : Code.op hw1 = 0b00011#5) (hx : hw1.getLsbD 10 = x) :
    Code.jalFormat x (Code.target26 hw1 hw2) = .pair hw1 hw2 := by
  have hhigh : 0b00011#5 ++ BitVec.ofBool x ++ (Code.target26 hw1 hw2).extractLsb' 16 5 ++
      (Code.target26 hw1 hw2).extractLsb' 21 5 = hw1 := by
    rw [← h1, ← hx]
    apply BitVec.eq_of_getLsbD_eq
    intro i hi
    simp only [Code.op, Code.target26, BitVec.getLsbD_append, BitVec.getLsbD_extractLsb']
    interval_cases i <;> simp
  have hlow : (Code.target26 hw1 hw2).extractLsb' 0 16 = hw2 := BitVec.extractLsb'_append_eq_right
  rw [Code.jalFormat, hhigh, hlow]

end

end Sys2Proof
end

section
/-! SUPPORT. The decoder against the encoder (30_encoding R81 to R99), and the statement that follows: O3. -/

namespace Sys2Proof

open Machine

section
variable {op f : BitVec 5} {rx ry : BitVec 3} {hw1 hw2 : Half}

/-! ## What the decoder answers -/

theorem decode_half_ok_iff {hw : Half} {i : Instr} :
    decode (.half hw) = .ok i ↔ Code.isWide hw = false ∧ decodeHalf hw = some i := by
  rw [decode]
  split
  · simp_all
  · split <;> simp_all

theorem decode_half_notInSource_iff {hw : Half} :
    decode (.half hw) = .error (.notInSource16 hw) ↔ Code.isWide hw = false ∧ decodeHalf hw = none := by
  rw [decode]
  split
  · simp_all
  · split <;> simp_all

theorem decode_pair_ok_iff {i : Instr} : decode (.pair hw1 hw2) = .ok i ↔ decodePair hw1 hw2 = some i := by
  rw [decode]
  split <;> simp_all

theorem decode_pair_notInSource_iff :
    decode (.pair hw1 hw2) = .error (.notInSource32 (hw1 ++ hw2)) ↔ decodePair hw1 hw2 = none := by
  rw [decode]
  split <;> simp_all

theorem decode_mips32_ok_iff {w : Word} {i : Instr} :
    decode (.mips32 w) = .ok i ↔ w.extractLsb' 26 6 = 0b011101#6 ∧ .jalx (w.extractLsb' 0 26) = i := by
  rw [decode]
  split <;> simp_all

theorem decodePair_extend (h1 : Code.op hw1 = 0b11110#5) : decodePair hw1 hw2 = decodeExtend hw1 hw2 := by
  simp [decodePair, h1]

/-! ## A decoded instruction has the words it was decoded from (30_encoding R83 to R99) -/

/-- The term has words of its own, and these are they. -/
def Instr.HasCode (i : Instr) (c : Code) : Prop := i.WellFormed ∧ encode i = c

theorem Instr.hasCode_iff {i : Instr} {c : Code} : i.HasCode c ↔ i ≠ .nop ∧ encode i = c := by
  have hwf : i.WellFormed ↔ i ≠ .nop := by cases i <;> simp [Instr.WellFormed, Instr.wellFormed]
  rw [Instr.HasCode, hwf]

theorem decodeJumpReg_hasCode {i : Instr} (h : decodeJumpReg (Code.rr rx ry 0b00000#5) = some i) :
    i.HasCode (.half (Code.rr rx ry 0b00000#5)) := by
  simp only [decodeJumpReg, Code.rr, Code.rx_pack, Code.ry_pack] at h
  split at h
  case h_7 => cases h
  all_goals
    rename_i hry
    obtain rfl := eq_ofNat_of_toNat hry
    rw [eq_comm] at h
    simp_all [Instr.hasCode_iff, encode, Code.rr]

theorem decodeCnvt_hasCode {i : Instr} (h : decodeCnvt (Code.rr rx ry 0b10001#5) = some i) :
    i.HasCode (.half (Code.rr rx ry 0b10001#5)) := by
  simp only [decodeCnvt, Code.rr, Code.rx_pack, Code.ry_pack] at h
  split at h
  case h_5 => cases h
  all_goals
    rename_i hry
    obtain rfl := eq_ofNat_of_toNat hry
    rw [eq_comm] at h
    simp_all [Instr.hasCode_iff, encode, Code.rr]

theorem decodeRR_hasCode {i : Instr} (h : decodeRR (Code.rr rx ry f) = some i) :
    i.HasCode (.half (Code.rr rx ry f)) := by
  simp only [decodeRR, Code.rr, Code.f5_pack, Code.rx_pack, Code.ry_pack] at h
  split at h
  case h_22 => cases h
  all_goals
    rename_i hf
    obtain rfl := eq_ofNat_of_toNat hf
  case h_1 => exact decodeJumpReg_hasCode h
  case h_16 => exact decodeCnvt_hasCode h
  all_goals
    rw [eq_comm] at h
    simp_all [Instr.hasCode_iff, encode, Code.rr, Code.brk_split]

theorem decodeRRR_hasCode {i : Instr} (h : decodeRRR (Code.pack 0b11100#5 rx ry f) = some i) :
    i.HasCode (.half (Code.pack 0b11100#5 rx ry f)) := by
  have hf : f.extractLsb' 2 3 ++ f.extractLsb' 0 2 = f :=
    extractLsb'_append_extractLsb'_self (n := 3) (k := 2) f
  simp only [decodeRRR, Code.rx_pack, Code.ry_pack, Code.low_pack _ f rx ry 0 2 (by omega),
    Code.low_pack _ f rx ry 2 3 (by omega)] at h
  split at h
  case h_3 => cases h
  all_goals
    rename_i hfun
    rw [eq_ofNat_of_toNat hfun] at hf
    rw [eq_comm] at h
    simp_all [Instr.hasCode_iff, encode]

theorem decodeI8_hasCode {i : Instr} (h : decodeI8 (Code.pack 0b01100#5 rx ry f) = some i) :
    i.HasCode (.half (Code.pack 0b01100#5 rx ry f)) := by
  obtain ⟨h7, h6, h5, h4, hlow⟩ := Code.svrs_bits_pack (op := 0b01100#5) (rx := rx) (ry := ry) (f := f)
  simp only [decodeI8, Code.rx_pack, Code.ry_pack, Code.f5_pack, h7, h6, h5, h4, hlow, Code.pack_extract_ry,
    Code.low_pack _ f rx ry 3 2 (by omega), Code.low_pack _ f rx ry 0 3 (by omega)] at h
  split at h
  case h_4 => cases h
  all_goals
    rename_i hrx
    obtain rfl := eq_ofNat_of_toNat hrx
  case h_1 =>
    split at h
    · next hs =>
      cases h
      exact ⟨rfl, congrArg Code.half (Code.svrs_of_bits hs)⟩
    · next hs =>
      cases h
      exact ⟨rfl, congrArg Code.half (Code.svrs_of_bits (by simpa using hs))⟩
  case h_2 =>
    cases h
    exact ⟨rfl, congrArg Code.half Code.moveR32Rz_split⟩
  case h_3 =>
    cases h
    exact ⟨rfl, rfl⟩

theorem decodeHalf_hasCode {hw : Half} {i : Instr} (h : decodeHalf hw = some i) : i.HasCode (.half hw) := by
  obtain ⟨op, rx, ry, f, rfl⟩ := Code.exists_pack hw
  simp only [decodeHalf, Code.op_pack] at h
  split at h
  case h_4 => cases h
  all_goals
    rename_i hop
    obtain rfl := eq_ofNat_of_toNat hop
  case h_1 => exact decodeI8_hasCode h
  case h_2 => exact decodeRRR_hasCode h
  case h_3 => exact decodeRR_hasCode h

theorem decodeExtShift_hasCode {i : Instr} (h1 : Code.op hw1 = 0b11110#5)
    (h : decodeExtShift hw1 (Code.pack 0b00110#5 rx ry f) = some i) :
    i.HasCode (.pair hw1 (Code.pack 0b00110#5 rx ry f)) := by
  simp only [decodeExtShift, Code.rx_pack, Code.ry_pack, Code.low_pack _ f rx ry 0 2 (by omega),
    Code.low_pack _ f rx ry 2 3 (by omega)] at h
  split at h
  case isFalse => cases h
  case isTrue hz =>
    obtain ⟨hhw1, hhw2⟩ := hz
    have hwords := Code.extShift_sa (rx := rx) (ry := ry) h1 hhw1 hhw2
    split at h
    case h_4 => cases h
    all_goals
      rename_i hf
      rw [eq_ofNat_of_toNat hf] at hwords
      cases h
      exact ⟨rfl, hwords⟩

theorem decodeExtI8_hasCode {i : Instr} (h1 : Code.op hw1 = 0b11110#5)
    (h : decodeExtI8 hw1 (Code.pack 0b01100#5 rx ry f) = some i) :
    i.HasCode (.pair hw1 (Code.pack 0b01100#5 rx ry f)) := by
  obtain ⟨h7, h6, h5, h4, -⟩ := Code.svrs_bits_pack (op := 0b01100#5) (rx := rx) (ry := ry) (f := f)
  simp only [decodeExtI8, Code.rx_pack, Code.ry_pack, h7, h6, h5, h4] at h
  split at h
  case h_6 => cases h
  all_goals
    rename_i hrx
    obtain rfl := eq_ofNat_of_toNat hrx
  case h_5 =>
    split at h
    · next hs =>
      cases h
      exact ⟨rfl, Code.extSvrs_of_bits h1 hs⟩
    · next hs =>
      cases h
      exact ⟨rfl, Code.extSvrs_of_bits h1 (by simpa using hs)⟩
  all_goals
    rw [eq_comm] at h
    simp_all [Instr.hasCode_iff, encode, Code.extImm_imm16 h1]

theorem decodeExtend_hasCode {i : Instr} (h1 : Code.op hw1 = 0b11110#5) (h : decodeExtend hw1 hw2 = some i) :
    i.HasCode (.pair hw1 hw2) := by
  obtain ⟨op, rx, ry, f, rfl⟩ := Code.exists_pack hw2
  simp only [decodeExtend, Code.op_pack, Code.rx_pack, Code.ry_pack, Code.f5_pack] at h
  split at h
  case h_26 => cases h
  all_goals
    rename_i hop
    obtain rfl := eq_ofNat_of_toNat hop
  case h_6 => exact decodeExtShift_hasCode h1 h
  case h_7 =>
    have hbit := Code.getLsbD_low_pack 0b01000#5 f rx ry 4 (by omega)
    rw [hbit] at h
    split at h
    · cases h
    · next hf =>
      cases h
      exact ⟨rfl, Code.encode_addiuRyRxImm_imm15 h1 (by simpa using hf)⟩
  case h_11 => exact decodeExtI8_hasCode h1 h
  case h_25 =>
    cases h
    refine ⟨rfl, ?_⟩
    rw [encode, ← h1]
    exact congrArg (Code.pair · _) (Code.pack_fields hw1)
  all_goals
    rw [eq_comm] at h
    simp_all [Instr.hasCode_iff, encode, Code.extImm_imm16 h1]

theorem decodePair_hasCode {i : Instr} (h : decodePair hw1 hw2 = some i) : i.HasCode (.pair hw1 hw2) := by
  simp only [decodePair] at h
  split at h
  case h_3 => cases h
  case h_1 => next hop => exact decodeExtend_hasCode (eq_ofNat_of_toNat hop) h
  case h_2 =>
    next hop =>
    have h1 := eq_ofNat_of_toNat hop
    split at h
    · next hx =>
      cases h
      exact ⟨rfl, Code.jalFormat_target26 h1 hx⟩
    · next hx =>
      cases h
      exact ⟨rfl, Code.jalFormat_target26 h1 (by simpa using hx)⟩

/-- The converse of `decode_encode`: what the decoder accepts is what the encoder writes. -/
theorem decode_hasCode {c : Code} {i : Instr} (h : decode c = .ok i) : i.HasCode c := by
  cases c with
  | half hw =>
    obtain ⟨-, hhalf⟩ := decode_half_ok_iff.mp h
    exact decodeHalf_hasCode hhalf
  | pair hw1 hw2 => exact decodePair_hasCode (decode_pair_ok_iff.mp h)
  | mips32 w =>
    obtain ⟨hop, rfl⟩ := decode_mips32_ok_iff.mp h
    have hw : w.extractLsb' 26 6 ++ w.extractLsb' 0 26 = w :=
    extractLsb'_append_extractLsb'_self (n := 6) (k := 26) w
    exact ⟨rfl, by rw [encode, ← hop, hw]⟩

/-! ## The words of an instruction decode to it -/

theorem decode_extImm {op' : BitVec 5} (imm : BitVec 16) (i : Instr)
    (h : decodeExtend (Code.extend16 imm) (Code.pack op' rx ry (imm.extractLsb' 0 5)) = some i) :
    decode (Code.extImm op' rx ry imm) = .ok i := by
  rw [Code.extImm, decode_pair_ok_iff, decodePair_extend (Code.op_extend16 imm), h]

theorem decode_svrs (s ra s0 s1 : Bool) (fs : BitVec 4) :
    decode (.half (Code.svrs s ra s0 s1 fs)) = .ok (if s then .save ra s0 s1 fs else .restore ra s0 s1 fs) := by
  obtain ⟨hs, hra, hs0, hs1, hfs⟩ := Code.svrs_bits s ra s0 s1 fs
  have hop : Code.op (Code.svrs s ra s0 s1 fs) = 0b01100#5 := Code.op_pack ..
  have hrx : Code.rx (Code.svrs s ra s0 s1 fs) = 0b100#3 := Code.rx_pack ..
  rw [decode_half_ok_iff]
  simp only [Code.isWide, decodeHalf, decodeI8, hop, hrx, hs, hra, hs0, hs1, hfs]
  cases s <;> simp

theorem decode_extSvrs (s ra s0 s1 : Bool) (xsregs : BitVec 3) (aregs : BitVec 4) (fs : BitVec 8) :
    decode (Code.extSvrs s ra s0 s1 xsregs aregs fs) =
      .ok (if s then .saveExt ra s0 s1 xsregs aregs fs else .restoreExt ra s0 s1 xsregs aregs fs) := by
  obtain ⟨hs, hra, hs0, hs1, -⟩ := Code.svrs_bits s ra s0 s1 (fs.extractLsb' 0 4)
  obtain ⟨hxs, hargs⟩ := Code.extSvrs_fields 0b11110#5 xsregs (fs.extractLsb' 4 4) aregs
  have hop : Code.op (Code.svrs s ra s0 s1 (fs.extractLsb' 0 4)) = 0b01100#5 := Code.op_pack ..
  have hrx : Code.rx (Code.svrs s ra s0 s1 (fs.extractLsb' 0 4)) = 0b100#3 := Code.rx_pack ..
  rw [Code.extSvrs, decode_pair_ok_iff, decodePair_extend (Code.op_extSvrs ..)]
  simp only [decodeExtend, decodeExtI8, hop, hrx, hs, hra, hs0, hs1, hxs, hargs, Code.framesize8_svrs]
  cases s <;> simp

theorem decode_jalFormat (x : Bool) (target : BitVec 26) :
    decode (Code.jalFormat x target) = .ok (if x then .jalx16 target else .jal target) := by
  obtain ⟨hop, hx⟩ := Code.jalFormat_fields x (target.extractLsb' 16 5) (target.extractLsb' 21 5)
  rw [Code.jalFormat, decode_pair_ok_iff]
  simp only [decodePair, hop, hx, Code.target26_jal]
  cases x <;> simp

/-- The decoder reads back what the encoder packs, format by format. -/
theorem decode_encode {i : Instr} (hwf : i.WellFormed) : decode (encode i) = .ok i := by
  cases i with
  | nop => cases hwf
  | addiuRxImm | addiuRxPcImm | addiuRxSpImm | cmpi | li | slti | sltiu | beqz | bnez | b | lb | lbu | lh | lhu
  | lwRxPc | lwRxSp | lwRyRx | sb | sh | swRxSp | swRyRx =>
    exact decode_extImm _ _ (by simp [decodeExtend])
  | addiuSpImm | bteqz | btnez | swRaSp =>
    exact decode_extImm _ _ (by simp [decodeExtend, decodeExtI8])
  | neg | and | cmp | not | or | slt | sltu | xor | div | divu | mfhi | mflo | mult | multu | sllv | srav | srlv =>
    simp [encode, Code.rr, decode_half_ok_iff, Code.isWide, decodeHalf, decodeRR]
  | brk code | sdbbp code =>
    have hcode : code.extractLsb' 3 3 ++ code.extractLsb' 0 3 = code :=
      extractLsb'_append_extractLsb'_self (n := 3) (k := 3) code
    simpa [encode, Code.rr, decode_half_ok_iff, Code.isWide, decodeHalf, decodeRR] using hcode
  | jalrc | jalr | jrcRa | jrcRx | jrRa | jrRx =>
    simp [encode, Code.rr, decode_half_ok_iff, Code.isWide, decodeHalf, decodeRR, decodeJumpReg]
  | seb | seh | zeb | zeh =>
    simp [encode, Code.rr, decode_half_ok_iff, Code.isWide, decodeHalf, decodeRR, decodeCnvt]
  | addu rz rx ry | subu rz rx ry =>
    have hrz (v : BitVec 2) : (rz ++ v).extractLsb' 2 3 = rz := BitVec.extractLsb'_append_eq_left
    have hv (v : BitVec 2) : (rz ++ v).extractLsb' 0 2 = v := BitVec.extractLsb'_append_eq_right
    simp [encode, decode_half_ok_iff, Code.isWide, decodeHalf, decodeRRR, Code.low_pack, hrz, hv]
  | moveR32Rz r32 rz =>
    have hrz : (r32.extractLsb' 3 2 ++ rz).extractLsb' 0 3 = rz := BitVec.extractLsb'_append_eq_right
    have hhigh : (r32.extractLsb' 3 2 ++ rz).extractLsb' 3 2 = r32.extractLsb' 3 2 := BitVec.extractLsb'_append_eq_left
    have hr32 : r32.extractLsb' 3 2 ++ r32.extractLsb' 0 3 = r32 :=
      extractLsb'_append_extractLsb'_self (n := 2) (k := 3) r32
    simp [encode, decode_half_ok_iff, Code.isWide, decodeHalf, decodeI8, Code.low_pack, Code.pack_extract_ry, hrz,
      hhigh, hr32]
  | moveRyR32 => simp [encode, decode_half_ok_iff, Code.isWide, decodeHalf, decodeI8]
  | save | restore => exact decode_svrs ..
  | saveExt | restoreExt => exact decode_extSvrs ..
  | addiuRyRxImm ry rx imm =>
    rw [encode, decode_pair_ok_iff, decodePair_extend (Code.op_rria ..)]
    have hbit : (0#1 ++ imm.extractLsb' 0 4)[4] = false := by
      simpa using (and_16_eq_zero_iff _).mp (rria_f5_mask (imm.extractLsb' 0 4))
    simp [decodeExtend, Code.imm15_rria, hbit]
  | sll rx ry sa | sra rx ry sa | srl rx ry sa =>
    rw [encode, Code.extShift, decode_pair_ok_iff, decodePair_extend (Code.op_extShift ..)]
    simp [decodeExtend, decodeExtShift, Code.low_pack, Code.extShift_low_eq_zero, Code.extShift_sa_field]
  | asmacro =>
    simp [encode, decode_pair_ok_iff, decodePair, decodeExtend, Code.pack_extract_rx, Code.pack_extract_ry,
      Code.pack_extract_f5]
  | jal | jalx16 => exact decode_jalFormat ..
  | jalx index => exact decode_jalx index

end

/-- Settles O3: no arm of the decoder drops a bit, so the words are put together again from the fields it reads. -/
theorem decodedCodeIsEncodedBack : Obligations.DecodedCodeIsEncodedBack := fun _ _ h => decode_hasCode h

end Sys2Proof
end

section
/-! SUPPORT. The decoder against the opcode table (30_encoding R92) and on bytes (R81, R82), and the statements
that follow: O4, O2. -/

namespace Sys2Proof

open Machine

section
variable {op f : BitVec 5} {rx ry : BitVec 3} {hw1 hw2 : Half}

/-! ## Rows and the codes that select them -/

/-- A 16-bit code selects a 16-bit row whose fixed bits are those of the halfword. -/
theorem selects_half_iff {hw : Half} {i : Instr} :
    selects (.half hw) i ↔
      (0 = (opcodeRow i).value.extractLsb' 16 16 ∧
        hw &&& (opcodeRow i).mask.extractLsb' 0 16 = (opcodeRow i).value.extractLsb' 0 16) ∧
      (opcodeRow i).width = 16 ∧ i.isa16 = true := by
  have hzero : codeWord (.half hw) = 0#16 ++ hw := by simp [codeWord, BitVec.setWidth_eq_append]
  simp [selects, hzero, append_and_eq_iff]

/-- A 32-bit MIPS16e code selects a 32-bit row whose fixed bits are those of its two halfwords. -/
theorem selects_pair_iff {i : Instr} :
    selects (.pair hw1 hw2) i ↔
      (hw1 &&& (opcodeRow i).mask.extractLsb' 16 16 = (opcodeRow i).value.extractLsb' 16 16 ∧
        hw2 &&& (opcodeRow i).mask.extractLsb' 0 16 = (opcodeRow i).value.extractLsb' 0 16) ∧
      (opcodeRow i).width = 32 ∧ i.isa16 = true := by
  simp only [selects, codeWord, append_and_eq_iff]

/-- Bits 31:26 of a 32-bit MIPS word (R85). -/
theorem jalx_mask_iff (w : Word) : w &&& 0xfc000000#32 = 0x74000000#32 ↔ w.extractLsb' 26 6 = 0b011101#6 := by
  have hw : w.extractLsb' 26 6 ++ w.extractLsb' 0 26 = w :=
    extractLsb'_append_extractLsb'_self (n := 6) (k := 26) w
  have hmask : (0xfc000000#32 : Word) = BitVec.allOnes 6 ++ 0#26 := by decide
  have hvalue : (0x74000000#32 : Word) = 0b011101#6 ++ 0#26 := by decide
  conv_lhs => rw [← hw, hmask, hvalue, BitVec.and_append, append_eq_append_iff, BitVec.and_allOnes]
  simp

theorem selects_mips32_jalx_iff {w : Word} {index : BitVec 26} :
    selects (.mips32 w) (.jalx index) ↔ w.extractLsb' 26 6 = 0b011101#6 := by
  rw [← jalx_mask_iff, selects, opcodeRow, codeWord]
  simp [Instr.isa16]

/-! In the proofs below `rw [opcodeRow]` writes the row out before its halves are cut off: the kernel computes with
the numbers of a row, not with a row that still names operands. -/

/-- The encoder writes the fixed bits of the row. -/
theorem encode_selects {i : Instr} (hwf : i.WellFormed) : selects (encode i) i := by
  cases i with
  | nop => cases hwf
  | addiuRxImm | addiuRxPcImm | addiuRxSpImm | addiuSpImm | cmpi | li | slti | sltiu | beqz | bnez | b | bteqz
  | btnez | lb | lbu | lh | lhu | lwRxPc | lwRxSp | lwRyRx | sb | sh | swRaSp | swRxSp | swRyRx =>
    rw [encode, Code.extImm, selects_pair_iff, opcodeRow]
    simp [extend_mask_iff, Code.pack_and_eq_iff, Instr.isa16]
  | neg | and | cmp | not | or | seb | seh | slt | sltu | xor | zeb | zeh | brk | sdbbp | jalrc | jalr | jrcRa | jrcRx
  | jrRa | jrRx | div | divu | mfhi | mflo | mult | multu | sllv | srav | srlv =>
    rw [encode, Code.rr, selects_half_iff, opcodeRow]
    simp [Code.pack_and_eq_iff, Instr.isa16]
  | addu | subu =>
    rw [encode, selects_half_iff, opcodeRow]
    simp [Code.pack_and_eq_iff, rrr_f5_mask, Instr.isa16]
  | moveR32Rz | moveRyR32 =>
    rw [encode, selects_half_iff, opcodeRow]
    simp [Code.pack_and_eq_iff, Instr.isa16]
  | save | restore =>
    rw [encode, Code.svrs, selects_half_iff, opcodeRow]
    simp [Code.pack_and_eq_iff, svrs_ry_mask, Instr.isa16]
  | saveExt | restoreExt =>
    rw [encode, Code.extSvrs, Code.svrs, selects_pair_iff, opcodeRow]
    simp [extend_mask_iff, Code.op_extSvrs, Code.pack_and_eq_iff, svrs_ry_mask, Instr.isa16]
  | addiuRyRxImm =>
    rw [encode, selects_pair_iff, opcodeRow]
    simp [extend_mask_iff, Code.op_rria, Code.pack_and_eq_iff, rria_f5_mask, Instr.isa16]
  | sll rx ry sa | sra rx ry sa | srl rx ry sa =>
    rw [encode, Code.extShift, selects_pair_iff, opcodeRow]
    simpa [extShift_mask_iff, Code.op_extShift, Code.pack_and_eq_iff, Instr.isa16] using
      Code.extShift_low_eq_zero sa
  | asmacro =>
    rw [encode, selects_pair_iff, opcodeRow]
    simp [extend_mask_iff, Code.pack_and_eq_iff, Instr.isa16]
  | jal target =>
    rw [encode, Code.jalFormat, selects_pair_iff, opcodeRow]
    exact ⟨⟨jalFormat_mask_iff.1.mpr (Code.jalFormat_fields ..), by simp⟩, rfl, rfl⟩
  | jalx16 target =>
    rw [encode, Code.jalFormat, selects_pair_iff, opcodeRow]
    exact ⟨⟨jalFormat_mask_iff.2.mpr (Code.jalFormat_fields ..), by simp⟩, rfl, rfl⟩
  | jalx index => exact selects_mips32_jalx_iff.mpr BitVec.extractLsb'_append_eq_left

/-- The fixed bits of a 16-bit row are fields that lead the decoder to an instruction of that row. -/
theorem decode_of_selects_half {hw : Half} {i : Instr} (hwf : i.WellFormed) (h : selects (.half hw) i) :
    ∃ j, decode (.half hw) = .ok j ∧ opcodeRow j = opcodeRow i := by
  obtain ⟨op, rx, ry, f, rfl⟩ := Code.exists_pack hw
  rw [selects_half_iff] at h
  obtain ⟨⟨-, hbits⟩, hwidth, -⟩ := h
  simp only [decode_half_ok_iff, Code.isWide, Code.op_pack]
  cases i with
  | nop => cases hwf
  | jrcRa | jrRa =>
    rw [opcodeRow] at hbits
    simp [Code.pack_and_eq_iff] at hbits
    simp [hbits, decodeHalf, decodeRR, decodeJumpReg]
  | neg | and | cmp | not | or | seb | seh | slt | sltu | xor | zeb | zeh | brk | sdbbp | jalrc | jalr | jrcRx | jrRx
  | div | divu | mfhi | mflo | mult | multu | sllv | srav | srlv =>
    rw [opcodeRow] at hbits
    simp [Code.pack_and_eq_iff] at hbits
    simp [hbits, decodeHalf, decodeRR, decodeJumpReg, decodeCnvt]
    rfl
  | addu | subu =>
    rw [opcodeRow] at hbits
    simp [Code.pack_and_eq_iff, and_3_eq_iff] at hbits
    simp [hbits, decodeHalf, decodeRRR, Code.low_pack]
    rfl
  | moveR32Rz | moveRyR32 =>
    rw [opcodeRow] at hbits
    simp [Code.pack_and_eq_iff] at hbits
    simp [hbits, decodeHalf, decodeI8]
    rfl
  | save | restore =>
    rw [opcodeRow] at hbits
    simp [Code.pack_and_eq_iff, and_4_eq_4_iff, and_4_eq_zero_iff] at hbits
    simp [hbits, decodeHalf, decodeI8]
    rfl
  | _ => simp [opcodeRow] at hwidth

/-- The fixed bits of a 32-bit MIPS16e row are fields that lead the decoder to an instruction of that row. -/
theorem decode_of_selects_pair {i : Instr} (h : selects (.pair hw1 hw2) i) :
    ∃ j, decode (.pair hw1 hw2) = .ok j ∧ opcodeRow j = opcodeRow i := by
  obtain ⟨op, rx, ry, f, rfl⟩ := Code.exists_pack hw2
  rw [selects_pair_iff] at h
  obtain ⟨hbits, hwidth, hisa⟩ := h
  simp only [decode_pair_ok_iff]
  cases i with
  | jalx => cases hisa
  | addiuRxImm | addiuRxPcImm | addiuRxSpImm | cmpi | li | slti | sltiu | beqz | bnez | b | lb | lbu | lh | lhu
  | lwRxPc | lwRxSp | lwRyRx | sb | sh | swRxSp | swRyRx | asmacro =>
    rw [opcodeRow] at hbits
    simp [Code.pack_and_eq_iff, extend_mask_iff] at hbits
    simp [hbits, decodePair, decodeExtend]
    rfl
  | addiuSpImm | bteqz | btnez | swRaSp =>
    rw [opcodeRow] at hbits
    simp [Code.pack_and_eq_iff, extend_mask_iff] at hbits
    simp [hbits, decodePair, decodeExtend, decodeExtI8]
    rfl
  | saveExt | restoreExt =>
    rw [opcodeRow] at hbits
    simp [Code.pack_and_eq_iff, extend_mask_iff, and_4_eq_4_iff, and_4_eq_zero_iff] at hbits
    simp [hbits, decodePair, decodeExtend, decodeExtI8]
    rfl
  | addiuRyRxImm =>
    rw [opcodeRow] at hbits
    simp [Code.pack_and_eq_iff, extend_mask_iff, and_16_eq_zero_iff] at hbits
    simp [hbits, decodePair, decodeExtend]
    rfl
  | sll | sra | srl =>
    rw [opcodeRow] at hbits
    simp [Code.pack_and_eq_iff, extShift_mask_iff] at hbits
    simp [hbits, decodePair, decodeExtend, decodeExtShift, Code.low_pack]
    rfl
  | jal =>
    rw [opcodeRow] at hbits
    simp [jalFormat_mask_iff] at hbits
    simp [hbits, decodePair]
    rfl
  | jalx16 =>
    rw [opcodeRow] at hbits
    simp [jalFormat_mask_iff] at hbits
    simp [hbits, decodePair]
    rfl
  | _ => simp [opcodeRow] at hwidth

/-- The row of JALX fixes bits 31:26, which are all that the decoder of 32-bit mode tests. -/
theorem decode_of_selects_mips32 {w : Word} {i : Instr} (h : selects (.mips32 w) i) :
    ∃ j, decode (.mips32 w) = .ok j ∧ opcodeRow j = opcodeRow i := by
  have hisa : i.isa16 = false := h.2
  cases i with
  | jalx index =>
    exact ⟨_, decode_mips32_ok_iff.mpr ⟨selects_mips32_jalx_iff.mp h, rfl⟩, rfl⟩
  | _ => cases hisa

/-! ## Bytes (30_encoding R81, R82, 20_memory R54) -/

theorem isWide_of_decodePair {i : Instr} (h : decodePair hw1 hw2 = some i) : Code.isWide hw1 = true := by
  rw [decodePair] at h
  split at h
  case h_3 => cases h
  all_goals
    rename_i hop
    simp [Code.isWide, eq_ofNat_of_toNat hop]

/-- Bytes whose head is the code of the instruction decode to it. -/
theorem decodeBytes_of_decode {c : Code} {i : Instr} (be : Bool) (rest : List Byte) (h : decode c = .ok i) :
    decodeBytes be i.isa16 (c.bytes be ++ rest) = .ok (i, rest) := by
  obtain ⟨hwf, rfl⟩ := decode_hasCode h
  have hsel := encode_selects hwf
  generalize encode i = c at h hsel
  cases c with
  | half hw =>
    obtain ⟨-, -, hisa⟩ := hsel
    obtain ⟨b0, b1, hbytes, hread⟩ := bytesToHalf_of_halfToBytes be hw
    obtain ⟨hnarrow, -⟩ := decode_half_ok_iff.mp h
    simp [decodeBytes, hisa, Code.bytes, hbytes, codeOfBytes16, hread, hnarrow, h]
  | pair hw1 hw2 =>
    obtain ⟨-, -, hisa⟩ := hsel
    obtain ⟨b0, b1, hbytes1, hread1⟩ := bytesToHalf_of_halfToBytes be hw1
    obtain ⟨b2, b3, hbytes2, hread2⟩ := bytesToHalf_of_halfToBytes be hw2
    have hwide := isWide_of_decodePair (decode_pair_ok_iff.mp h)
    simp [decodeBytes, hisa, Code.bytes, hbytes1, hbytes2, codeOfBytes16, hread1, hread2, hwide, h]
  | mips32 w =>
    obtain ⟨-, hisa⟩ := hsel
    obtain ⟨b0, b1, b2, b3, hbytes, hread⟩ := bytesToWord_of_wordToBytes be w
    simp [decodeBytes, hisa, Code.bytes, hbytes, codeOfBytes32, hread, h]

end

/-- Settles O4: what decodes is encoded from its own row, and the bits a row fixes are the ones the decoder branches
on. -/
theorem decoderAgreesWithTheOpcodeTable : Obligations.DecoderAgreesWithTheOpcodeTable := by
  refine ⟨fun c j h => ?_, fun c i hwf h => ?_⟩
  · obtain ⟨hwf, rfl⟩ := decode_hasCode h
    exact encode_selects hwf
  · cases c with
    | half hw => exact decode_of_selects_half hwf h
    | pair hw1 hw2 => exact decode_of_selects_pair h
    | mips32 w => exact decode_of_selects_mips32 h

/-- Settles O2: the words decode to the instruction, and its row fixes the ISA mode in which they do. -/
theorem encodedBytesDecodeInEitherByteOrder : Obligations.EncodedBytesDecodeInEitherByteOrder :=
  fun be _ rest hwf => decodeBytes_of_decode be rest (decode_encode hwf)

end Sys2Proof
end

section
/-! SUPPORT. What the decoder rejects (30_encoding R91, R93 to R99), and the statements that follow: O5, O6. -/

namespace Sys2Proof

open Machine

section
variable {op f : BitVec 5} {rx ry : BitVec 3} {hw1 hw2 : Half}

/-! ## Encodings that are not in source (30_encoding R91, R93 to R99) -/

/-- The major opcodes with no 16-bit page (R93). -/
theorem decodeHalf_none_of_op {hw : Half} (h : Code.op hw ∉ [0b01100#5, 0b11100#5, 0b11101#5]) :
    decodeHalf hw = none := by
  rw [decodeHalf]
  split
  case h_4 => rfl
  all_goals
    rename_i hop
    simp [eq_ofNat_of_toNat hop] at h

/-- The I8 functions with no 16-bit form (R97). -/
theorem decodeI8_none (h : rx ∈ [0b000#3, 0b001#3, 0b010#3, 0b011#3, 0b110#3]) :
    decodeI8 (Code.pack op rx ry f) = none := by
  simp only [List.mem_cons, List.not_mem_nil, or_false] at h
  rcases h with rfl | rfl | rfl | rfl | rfl <;> simp [decodeI8]

/-- The RRR functions with no row (R98). -/
theorem decodeRRR_none (h : f.extractLsb' 0 2 ∈ [0b00#2, 0b10#2]) :
    decodeRRR (Code.pack op rx ry f) = none := by
  simp only [List.mem_cons, List.not_mem_nil, or_false] at h
  rcases h with hf | hf <;> simp [decodeRRR, Code.low_pack, hf]

/-- The RR functions with no row (R94). -/
theorem decodeRR_none
    (h : f ∈ [0b01000#5, 0b01001#5, 0b10011#5, 0b10100#5, 0b10101#5, 0b10110#5, 0b10111#5, 0b11100#5, 0b11101#5,
      0b11110#5, 0b11111#5]) : decodeRR (Code.pack op rx ry f) = none := by
  simp only [List.mem_cons, List.not_mem_nil, or_false] at h
  rcases h with rfl | rfl | rfl | rfl | rfl | rfl | rfl | rfl | rfl | rfl | rfl <;> simp [decodeRR]

/-- The CNVT functions with no row (R96). -/
theorem decodeCnvt_none (h : ry ∈ [0b010#3, 0b011#3, 0b110#3, 0b111#3]) :
    decodeCnvt (Code.pack op rx ry f) = none := by
  simp only [List.mem_cons, List.not_mem_nil, or_false] at h
  rcases h with rfl | rfl | rfl | rfl <;> simp [decodeCnvt]

/-- The J(AL)R(C) functions with no row (R95). -/
theorem decodeJumpReg_none (hl : ry.getLsbD 1 = true) (hra : ry.getLsbD 0 = true) :
    decodeJumpReg (Code.pack op rx ry f) = none := by
  have hry : ry = 0b011#3 ∨ ry = 0b111#3 := by
    revert hl hra; revert ry; decide
  rcases hry with rfl | rfl <;> simp [decodeJumpReg]

/-- With `ra` = 1 a jump names no register, and bits 10:8 are drawn as zero (R91, R95). -/
theorem decodeJumpReg_none_of_rx (hra : ry.getLsbD 0 = true) (hrx : rx ≠ 0#3) :
    decodeJumpReg (Code.pack op rx ry f) = none := by
  have hry : ry = 0b001#3 ∨ ry = 0b011#3 ∨ ry = 0b101#3 ∨ ry = 0b111#3 := by
    revert hra; revert ry; decide
  rcases hry with rfl | rfl | rfl | rfl <;> simp [decodeJumpReg, hrx]

/-- MFHI and MFLO draw bits 7:5 as zero (R91). -/
theorem decodeRR_none_of_ry (h : f ∈ [0b10000#5, 0b10010#5]) (hry : ry ≠ 0#3) :
    decodeRR (Code.pack op rx ry f) = none := by
  simp only [List.mem_cons, List.not_mem_nil, or_false] at h
  rcases h with rfl | rfl <;> simp [decodeRR, hry]

/-- The major opcodes with no extended page (R93, R99). -/
theorem decodeExtend_none_of_op
    (h : op ∈ [0b00011#5, 0b00111#5, 0b01111#5, 0b10111#5, 0b11101#5, 0b11110#5, 0b11111#5]) :
    decodeExtend hw1 (Code.pack op rx ry f) = none := by
  simp only [List.mem_cons, List.not_mem_nil, or_false] at h
  rcases h with rfl | rfl | rfl | rfl | rfl | rfl | rfl <;> simp [decodeExtend]

/-- EXT-RI draws bits 7:5 as zero. -/
theorem decodeExtend_none_of_ry
    (h : op ∈ [0b00000#5, 0b00001#5, 0b00100#5, 0b00101#5, 0b01001#5, 0b01010#5, 0b01011#5, 0b01101#5, 0b01110#5,
      0b10010#5, 0b10110#5, 0b11010#5]) (hry : ry ≠ 0#3) : decodeExtend hw1 (Code.pack op rx ry f) = none := by
  simp only [List.mem_cons, List.not_mem_nil, or_false] at h
  rcases h with rfl | rfl | rfl | rfl | rfl | rfl | rfl | rfl | rfl | rfl | rfl | rfl <;> simp [decodeExtend, hry]

/-- EXT-I, the extended B, draws bits 10:5 as zero. -/
theorem decodeExtend_none_of_b (h : (Code.pack 0b00010#5 rx ry f).extractLsb' 5 6 ≠ 0#6) :
    decodeExtend hw1 (Code.pack 0b00010#5 rx ry f) = none := by
  have hmid : (Code.pack 0b00010#5 rx ry f).extractLsb' 5 6 = rx ++ ry := by
    apply BitVec.eq_of_getLsbD_eq
    intro i hi
    simp only [Code.pack, BitVec.getLsbD_append, BitVec.getLsbD_extractLsb']
    interval_cases i <;> simp
  have hfields : ¬ (rx = 0#3 ∧ ry = 0#3) := by
    rintro ⟨rfl, rfl⟩
    exact h hmid
  simp [decodeExtend, hfields]

/-- The I8 functions with no extended form (R97). -/
theorem decodeExtI8_none (h : rx ∈ [0b101#3, 0b110#3, 0b111#3]) :
    decodeExtI8 hw1 (Code.pack op rx ry f) = none := by
  simp only [List.mem_cons, List.not_mem_nil, or_false] at h
  rcases h with rfl | rfl | rfl <;> simp [decodeExtI8]

/-- EXT-I8 but for SAVE and RESTORE draws bits 7:5 as zero. -/
theorem decodeExtI8_none_of_ry (h : rx ∈ [0b000#3, 0b001#3, 0b010#3, 0b011#3]) (hry : ry ≠ 0#3) :
    decodeExtI8 hw1 (Code.pack op rx ry f) = none := by
  simp only [List.mem_cons, List.not_mem_nil, or_false] at h
  rcases h with rfl | rfl | rfl | rfl <;> simp [decodeExtI8, hry]

/-- The SHIFT function with no row (R98). -/
theorem decodeExtShift_none (h : f.extractLsb' 0 2 = 0b01#2) : decodeExtShift hw1 (Code.pack op rx ry f) = none := by
  simp [decodeExtShift, Code.low_pack, h]

/-- EXT-SHIFT draws bits 5:0 of its first halfword and bits 4:2 of its second as zero. -/
theorem decodeExtShift_none_of_zero_field (h : hw1.extractLsb' 0 6 ≠ 0 ∨ f.extractLsb' 2 3 ≠ 0) :
    decodeExtShift hw1 (Code.pack op rx ry f) = none := by
  rw [decodeExtShift, if_neg]
  rw [Code.low_pack op f rx ry 2 3 (by omega)]
  tauto

end

/-- Settles O5: each code listed reaches an arm of the decoder that answers nothing. -/
theorem encodingsWithNoPageAreRejected : Obligations.EncodingsWithNoPageAreRejected := by
  refine ⟨fun hw hnarrow h => ?_, fun hw1 hw2 h1 h => ?_, fun w hop => ?_⟩
  · refine decode_half_notInSource_iff.mpr ⟨hnarrow, ?_⟩
    obtain ⟨op, rx, ry, f, rfl⟩ := Code.exists_pack hw
    obtain ⟨-, hbit6, hbit5, -, -⟩ := Code.svrs_bits_pack (op := op) (rx := rx) (ry := ry) (f := f)
    simp only [Code.op_pack, Code.rx_pack, Code.ry_pack, Code.f5_pack, hbit6, hbit5,
      Code.low_pack op f rx ry 0 2 (by omega)] at h
    rcases h with hop | ⟨rfl, hrx⟩ | ⟨rfl, hf⟩ | ⟨rfl, hf⟩ | ⟨rfl, rfl, hry⟩ | ⟨rfl, rfl, h6, h5⟩
    · exact decodeHalf_none_of_op (by rwa [Code.op_pack])
    · simpa [decodeHalf] using decodeI8_none hrx
    · simpa [decodeHalf] using decodeRRR_none hf
    · simpa [decodeHalf] using decodeRR_none hf
    · simpa [decodeHalf, decodeRR] using decodeCnvt_none hry
    · simpa [decodeHalf, decodeRR] using decodeJumpReg_none h6 h5
  · rw [decode_pair_notInSource_iff, decodePair_extend h1]
    obtain ⟨op, rx, ry, f, rfl⟩ := Code.exists_pack hw2
    simp only [Code.op_pack, Code.rx_pack, Code.low_pack op f rx ry 0 2 (by omega)] at h
    rcases h with hop | ⟨rfl, hrx⟩ | ⟨rfl, hf⟩ | ⟨rfl, hf⟩
    · exact decodeExtend_none_of_op hop
    · simpa [decodeExtend] using decodeExtI8_none hrx
    · simpa [decodeExtend] using decodeExtShift_none hf
    · simpa [decodeExtend] using hf
  · rw [decode, if_neg hop]

/-- Settles O6: each arm that draws a field as zero tests it. -/
theorem nonzeroZeroFieldsAreRejected : Obligations.NonzeroZeroFieldsAreRejected := by
  refine ⟨fun hw hop h => ?_, fun hw1 hw2 h1 h => ?_⟩
  · refine decode_half_notInSource_iff.mpr ⟨by simp [Code.isWide, hop], ?_⟩
    obtain ⟨op, rx, ry, f, rfl⟩ := Code.exists_pack hw
    obtain ⟨-, -, hbit5, -, -⟩ := Code.svrs_bits_pack (op := op) (rx := rx) (ry := ry) (f := f)
    simp only [Code.op_pack, Code.rx_pack, Code.ry_pack, Code.f5_pack, hbit5] at h hop
    subst hop
    rcases h with ⟨hf, hry⟩ | ⟨rfl, hra, hrx⟩
    · simpa [decodeHalf] using decodeRR_none_of_ry hf hry
    · simpa [decodeHalf, decodeRR] using decodeJumpReg_none_of_rx hra hrx
  · rw [decode_pair_notInSource_iff, decodePair_extend h1]
    obtain ⟨op, rx, ry, f, rfl⟩ := Code.exists_pack hw2
    simp only [Code.op_pack, Code.rx_pack, Code.ry_pack, Code.low_pack op f rx ry 2 3 (by omega)] at h
    rcases h with ⟨hop, hry⟩ | ⟨rfl, hrx, hry⟩ | ⟨rfl, hmid⟩ | ⟨rfl, hz⟩
    · exact decodeExtend_none_of_ry hop hry
    · simpa [decodeExtend] using decodeExtI8_none_of_ry hrx hry
    · exact decodeExtend_none_of_b hmid
    · simpa [decodeExtend] using decodeExtShift_none_of_zero_field hz

end Sys2Proof
end

section
/-! SUPPORT. Rules that write one register and fall through, the fixed bits of their words, and addition and
subtraction (40_add_sub R120 to R127) with words of the spec's examples: O16, O7, O15, O17. -/

namespace Sys2Proof

open Machine

/-! ## The words of an instruction -/

/-- The fixed bits of an instruction's words are those of its row of the opcode table (30_encoding R92). -/
theorem encodedAs_opcodeRow {i : Instr} (hwf : i.WellFormed) :
    EncodedAs i i.len (opcodeRow i).value (opcodeRow i).mask := by
  obtain ⟨hbits, -⟩ := encode_selects hwf
  exact ⟨rfl, hbits⟩

/-- A code that the encoder writes for an instruction decodes to it. -/
theorem decode_of_encode_eq {i : Instr} {c : Code} (hwf : i.WellFormed) (hcode : encode i = c) : decode c = .ok i :=
  hcode ▸ decode_encode hwf

/-- Settles O7: each word is the one the encoder writes for its instruction, and the decoder reads it back. -/
theorem sampleWordsDecode : Obligations.SampleWordsDecode :=
  ⟨decode_of_encode_eq rfl rfl, decode_of_encode_eq rfl rfl, decode_of_encode_eq rfl rfl, decode_of_encode_eq rfl rfl,
    decode_of_encode_eq rfl rfl, decode_of_encode_eq rfl rfl, decode_of_encode_eq rfl rfl, decode_of_encode_eq rfl rfl,
    decode_of_encode_eq rfl rfl, decode_of_encode_eq rfl rfl, decode_of_encode_eq rfl rfl⟩

end Sys2Proof

namespace Sys2Proof.Machine

variable {s : State}

/-! ## Rules that write one register and fall to the next instruction -/

/-- `State.setAndAdvance` leaves the value in a register other than GPR 0, moves pc, and changes nothing else. -/
theorem computes_of_setAndAdvance {i : Instr} {rd : Gpr} {v len : Word} (hrd : rd ≠ 0)
    (hexec : exec i s = s.setAndAdvance rd v len) : Computes i s rd v len := by
  refine ⟨(s.writeGpr rd v).advance len, hexec, by simp [hrd], by simp, fun r hr => ?_, ?_, ?_, ?_, ?_⟩
  · have hne : r ≠ rd := by simpa using hr
    simp [hne]
  · simp [SameHiLo]
  · simp [SameControl]
  · simp [SameSystem]
  · simp [SameMem]

/-! ## A 32-bit instruction in a delay slot -/

/-- The length alone stops it, before it is decoded (10_state R30 line 4, D17). -/
theorem State.runCode_pair_of_pending (h : s.delay ≠ none) (hw1 hw2 : Half) :
    s.runCode (.pair hw1 hw2) = .fault (.unpredictable .wideInDelaySlot) := by
  have hrejects : slotRejectsCode s.delay.isSome (.pair hw1 hw2) = true := Option.isSome_iff_ne_none.mpr h
  rw [State.runCode, if_pos hrejects]

/-! ## Addition and subtraction (40_add_sub R120 to R127) -/

/-- Settles O16: the model's base is the masked pc, and its words are a pair. -/
theorem addImmediateToPc : Obligations.AddImmediateToPc := by
  intro rx imm s
  refine ⟨encodedAs_opcodeRow rfl, ?_, fun hslot => State.runCode_pair_of_pending hslot _ _⟩
  rw [← pcBase_eq_and]
  exact computes_of_setAndAdvance (xlat_ne_zero rx) rfl

/-- Settles O15: each form adds to its base register in the rule that writes one register. -/
theorem addImmediateForms : Obligations.AddImmediateForms := by
  intro rx ry imm imm15 s
  exact ⟨⟨encodedAs_opcodeRow rfl, computes_of_setAndAdvance (xlat_ne_zero rx) rfl⟩,
    ⟨encodedAs_opcodeRow rfl, computes_of_setAndAdvance (xlat_ne_zero rx) rfl⟩,
    ⟨encodedAs_opcodeRow rfl, computes_of_setAndAdvance (xlat_ne_zero ry) rfl⟩,
    ⟨encodedAs_opcodeRow rfl, computes_of_setAndAdvance regSp_ne_zero rfl⟩⟩

/-- Settles O17: each of the three computes in the rule that writes one register, which never traps. -/
theorem addSubtractNegate : Obligations.AddSubtractNegate := by
  intro rx ry rz s
  exact ⟨⟨encodedAs_opcodeRow rfl, computes_of_setAndAdvance (xlat_ne_zero rz) rfl⟩,
    ⟨encodedAs_opcodeRow rfl, computes_of_setAndAdvance (xlat_ne_zero rx) rfl⟩,
    ⟨encodedAs_opcodeRow rfl, computes_of_setAndAdvance (xlat_ne_zero rz) rfl⟩⟩

end Sys2Proof.Machine
end

section
/-! SUPPORT. Logical, move, compare, set and extend instructions (41_logical_move_compare R140 to R157): O18, O19,
O20, O21, O22, O23. -/

namespace Sys2Proof.Machine

variable {s : State}

/-! ## Rules that write one register and rules that write none -/

/-- A rule that writes one register: the fixed bits of its words, and the value it leaves with what holds of it. -/
theorem encodedAs_and_leaves {i : Instr} {rd : Gpr} {v len : Word} {P : Word → Prop} (hwf : i.WellFormed)
    (hrd : rd ≠ 0) (hexec : exec i s = s.setAndAdvance rd v len) (hv : P v) :
    EncodedAs i i.len (opcodeRow i).value (opcodeRow i).mask ∧ ∃ v, Computes i s rd v len ∧ P v :=
  ⟨encodedAs_opcodeRow hwf, v, computes_of_setAndAdvance hrd hexec, hv⟩

/-- `State.advance` moves pc alone. -/
theorem State.advance_frame (s : State) (len : Word) :
    SameGprExcept [] s (s.advance len) ∧ SameHiLo s (s.advance len) ∧ SameControl s (s.advance len) ∧
      SameSystem s (s.advance len) ∧ SameMem s (s.advance len) := by
  refine ⟨fun r _ => State.advance_readGpr s len r, ?_, ?_, ?_, ?_⟩
  · simp [SameHiLo]
  · simp [SameControl]
  · simp [SameSystem]
  · simp [SameMem]

/-! ## The values of a comparison (41_logical_move_compare R141, R142, R151 to R154) -/

theorem compareWord_eq_zero_iff {a b : Word} : compareWord a b = 0 ↔ a = b := BitVec.xor_eq_zero_iff

/-- A zero-extended immediate equals a register exactly as natural numbers. -/
theorem eq_zext16_iff {a : Word} {imm : BitVec 16} : a = zext16 imm ↔ a.toNat = imm.toNat := by
  rw [← BitVec.toNat_inj, BitVec.toNat_setWidth_of_le (by decide)]

theorem toNat_boolWord_decide (p : Prop) [Decidable p] : (boolWord (decide p)).toNat = if p then 1 else 0 := by
  by_cases hp : p
  · rw [decide_eq_true hp, if_pos hp]; rfl
  · rw [decide_eq_false hp, if_neg hp]; rfl

theorem toNat_boolWord_lessSigned (a b : Word) :
    (boolWord (lessSigned a b)).toNat = if a.toInt < b.toInt then 1 else 0 := toNat_boolWord_decide _

theorem toNat_boolWord_lessUnsigned (a b : Word) :
    (boolWord (lessUnsigned a b)).toNat = if a.toNat < b.toNat then 1 else 0 := toNat_boolWord_decide _

/-! ## Extensions (41_logical_move_compare R156, R157) -/

/-- The low `n` bits of a word, zero-extended, are its remainder modulo `2 ^ n`. -/
theorem toNat_setWidth_low {n : Nat} (w : Word) (hn : n ≤ 32) :
    ((w.extractLsb' 0 n).setWidth 32).toNat = w.toNat % 2 ^ n := by
  rw [BitVec.toNat_setWidth_of_le hn, BitVec.extractLsb'_toNat, Nat.shiftRight_zero]

/-! ## The 5-bit field that names any register (10_state R21, 30_encoding R90) -/

theorem direct_ne_zero {r32 : BitVec 5} (h : r32 ≠ 0) : direct r32 ≠ 0 := fun hzero =>
  h (BitVec.eq_of_toFin_eq hzero)

theorem State.readGpr_direct (r32 : BitVec 5) :
    s.readGpr (direct r32) = if r32 = 0 then 0 else s.gpr[r32.toFin] := by
  by_cases h : r32 = 0
  · subst h; rfl
  · rw [State.readGpr, if_neg (direct_ne_zero h), if_neg h]; rfl

/-! ## MOVE r32, rz (41_logical_move_compare R144, R146) -/

/-- A MOVE to GPR 0 discards the value (R144, R146). -/
theorem exec_moveR32Rz_zero (rz : BitVec 3) (s : State) : exec (.moveR32Rz 0 rz) s = .next (s.advance 2) := rfl

/-- The halfwords 0x6500 to 0x6507 are the MOVEs to GPR 0 (R146). -/
theorem encode_moveR32Rz_zero (rz : BitVec 3) :
    encode (.moveR32Rz 0 rz) = .half (0b0110010100000#13 ++ rz) := by
  revert rz; decide

/-- The fields of the halfword of MOVE r32, rz, where `r32` stands split (30_encoding R83). -/
theorem encode_moveR32Rz_fields (r32 : BitVec 5) (rz : BitVec 3) :
    ∃ hw, encode (.moveR32Rz r32 rz) = .half hw ∧ hw.extractLsb' 5 3 = r32.extractLsb' 0 3 ∧
      hw.extractLsb' 3 2 = r32.extractLsb' 3 2 ∧ hw.extractLsb' 0 3 = rz := by
  refine ⟨_, rfl, Code.pack_extract_ry, ?_, ?_⟩
  · rw [Code.low_pack _ _ _ _ 3 2 (by decide), BitVec.extractLsb'_append_eq_left]
  · rw [Code.low_pack _ _ _ _ 0 3 (by decide), BitVec.extractLsb'_append_eq_right]

/-! ## The statements -/

/-- Settles O18: each operation is the machine word's own, which acts bit by bit. -/
theorem bitwiseOperations : Obligations.BitwiseOperations := by
  intro rx ry s
  refine ⟨encodedAs_and_leaves rfl (xlat_ne_zero rx) rfl fun b _ => ?_,
    encodedAs_and_leaves rfl (xlat_ne_zero rx) rfl fun b hb => ?_,
    encodedAs_and_leaves rfl (xlat_ne_zero rx) rfl fun b _ => ?_,
    encodedAs_and_leaves rfl (xlat_ne_zero rx) rfl fun b _ => ?_⟩
  · exact BitVec.getLsbD_and
  · simp only [BitVec.getLsbD_not, hb, decide_true, Bool.true_and]
  · exact BitVec.getLsbD_or
  · exact BitVec.getLsbD_xor

/-- Settles O19: an exclusive-or is 0 exactly for equal words, and the immediate is a word by zero extension. -/
theorem compareLeavesTheDifferenceInT : Obligations.CompareLeavesTheDifferenceInT := by
  intro rx ry imm s
  exact ⟨encodedAs_and_leaves rfl regT_ne_zero rfl ⟨rfl, compareWord_eq_zero_iff.trans eq_zext16_iff⟩,
    encodedAs_and_leaves rfl regT_ne_zero rfl ⟨rfl, compareWord_eq_zero_iff.trans eq_comm⟩⟩

/-- Settles O20: zero extension keeps the natural number of the bits taken, sign extension their signed integer. -/
theorem loadImmediateAndExtend : Obligations.LoadImmediateAndExtend := by
  intro rx imm s
  exact ⟨encodedAs_and_leaves rfl (xlat_ne_zero rx) rfl (BitVec.toNat_setWidth_of_le (by decide)),
    encodedAs_and_leaves rfl (xlat_ne_zero rx) rfl (BitVec.toInt_signExtend_of_le (by decide)),
    encodedAs_and_leaves rfl (xlat_ne_zero rx) rfl (BitVec.toInt_signExtend_of_le (by decide)),
    encodedAs_and_leaves rfl (xlat_ne_zero rx) rfl (toNat_setWidth_low (n := 8) _ (by decide)),
    encodedAs_and_leaves rfl (xlat_ne_zero rx) rfl (toNat_setWidth_low (n := 16) _ (by decide))⟩

/-- Settles O21: a write through a field other than 0 reaches that register, a write to GPR 0 only moves pc, and a
read of GPR 0 gives 0. -/
theorem moveReachesEveryRegister : Obligations.MoveReachesEveryRegister := by
  intro r32 rz ry s
  refine ⟨⟨encodedAs_opcodeRow rfl, encode_moveR32Rz_fields r32 rz, fun hr32 => ?_, fun hzero => ?_⟩,
    encodedAs_opcodeRow rfl, ?_⟩
  · exact computes_of_setAndAdvance (direct_ne_zero hr32) rfl
  · subst hzero
    exact ⟨s.advance 2, exec_moveR32Rz_zero rz s, rfl, s.advance_frame 2⟩
  · rw [← State.readGpr_direct]
    exact computes_of_setAndAdvance (xlat_ne_zero ry) rfl

/-- Settles O23: the word in GPR 24 is that of the comparison, and the sign-extended immediate is the same integer. -/
theorem setOnLessThan : Obligations.SetOnLessThan := by
  intro rx ry imm s
  refine ⟨encodedAs_and_leaves rfl regT_ne_zero rfl ?_,
    encodedAs_and_leaves rfl regT_ne_zero rfl (toNat_boolWord_lessUnsigned _ _),
    encodedAs_and_leaves rfl regT_ne_zero rfl (toNat_boolWord_lessSigned _ _),
    encodedAs_and_leaves rfl regT_ne_zero rfl (toNat_boolWord_lessUnsigned _ _)⟩
  rw [toNat_boolWord_lessSigned, BitVec.toInt_signExtend_of_le (by decide)]

/-- Settles O22: the eight halfwords are what the encoder writes for the MOVEs to GPR 0, which discard the value. -/
theorem nopChangesOnlyPc : Obligations.NopChangesOnlyPc :=
  ⟨rfl, decode_of_encode_eq rfl (encode_moveR32Rz_zero 0), fun s =>
    ⟨rfl, fun rz => ⟨decode_of_encode_eq rfl (encode_moveR32Rz_zero rz), exec_moveR32Rz_zero rz s⟩⟩⟩

end Sys2Proof.Machine
end

section
/-! SUPPORT. Rules that take an exception, and BREAK, ASMACRO and SDBBP (42_system R170 to R172): O49, O50. -/

namespace Sys2Proof.Machine

variable {s : State}

/-! ## What taking an exception leaves unchanged (60_exceptions R310) -/

/-- `State.raise` writes no register and no memory. -/
theorem State.raise_frame (s : State) (kind : ExcKind) (addr : Option Word) :
    SameGprExcept [] s (s.raise kind addr) ∧ SameHiLo s (s.raise kind addr) ∧ SameMem s (s.raise kind addr) := by
  refine ⟨fun r _ => State.raise_readGpr s kind addr r, ?_, ?_⟩
  · simp [SameHiLo]
  · simp [SameMem]

/-- `State.raise` leaves the record of R307, discards the pending jump, and changes nothing else. -/
theorem takesException_of_raise {i : Instr} {kind : ExcKind} {addr : Option Word}
    (hexec : exec i s = .next (s.raise kind addr)) : TakesException i s kind addr :=
  ⟨s.raise kind addr, hexec, rfl, rfl, rfl, rfl, rfl, rfl, rfl, rfl, rfl, rfl, s.raise_frame kind addr⟩

/-! ## ASMACRO (42_system R170) -/

section
variable {select : BitVec 3} (p0 : BitVec 5) (p1 p2 : BitVec 3) (p3 : BitVec 5) (p4 : BitVec 3)

theorem exec_asmacro_of_notMem (h : select ∉ s.cfg.asmacro) :
    exec (.asmacro select p0 p1 p2 p3 p4) s = .next (s.raise .reservedInstruction none) :=
  if_neg (mt List.contains_iff_mem.mp h)

theorem exec_asmacro_of_mem (h : select ∈ s.cfg.asmacro) :
    exec (.asmacro select p0 p1 p2 p3 p4) s = .refused (.macroNotInSource select) :=
  if_pos (List.contains_iff_mem.mpr h)

end

/-! ## SDBBP (42_system R172) -/

/-- In either mode SDBBP is a debug exception with a DExcCode: DM selects the kind, and whether the code is new. -/
theorem exec_sdbbp (code : BitVec 6) (s : State) :
    exec (.sdbbp code) s =
      .next { s.raiseDebug (if s.debugDM then .debugModeBreakpoint else .debugBreakpoint) with
        debugDExcCode := if s.debugDM then 0x9#5 else s.debugDExcCode } := by
  cases hdm : s.debugDM with
  | true => exact congrArg Host.Outcome.next (if_pos hdm)
  | false => exact congrArg Host.Outcome.next (if_neg (by simp [hdm]))

/-- A debug exception writes DEPC and a DExcCode where `State.raise` writes neither, and no other register. -/
theorem State.raiseDebug_frame (s : State) (kind : ExcKind) (dexcCode : BitVec 5) :
    let t := { s.raiseDebug kind with debugDExcCode := dexcCode }
    SameGprExcept [] s t ∧ SameHiLo s t ∧ SameMem s t :=
  s.raise_frame kind none

/-! ## The statements -/

/-- Settles O49: BREAK always raises, and ASMACRO raises or is refused by the parameter that lists the macros. -/
theorem breakAndAsmacroTakeTheirExceptions : Obligations.BreakAndAsmacroTakeTheirExceptions := by
  intro code select p0 p1 p2 p3 p4 s
  exact ⟨⟨encodedAs_opcodeRow rfl, takesException_of_raise rfl⟩, encodedAs_opcodeRow rfl,
    fun hnot => takesException_of_raise (exec_asmacro_of_notMem p0 p1 p2 p3 p4 hnot),
    exec_asmacro_of_mem p0 p1 p2 p3 p4⟩

/-- Settles O50: the kind and DExcCode are those of the mode, and the debug exception leaves the rest as it was. -/
theorem sdbbpTakesADebugException : Obligations.SdbbpTakesADebugException := by
  intro code s
  exact ⟨encodedAs_opcodeRow rfl, _, exec_sdbbp code s, rfl, rfl, rfl, rfl, rfl, rfl, rfl, rfl, rfl,
    s.raiseDebug_frame _ _⟩

end Sys2Proof.Machine
end

section
/-! SUPPORT. Branches and jumps (43_branch_jump R180 to R195): the targets and link values as the statements write
them, the rules that go to an address at once and those that leave a jump pending: O14, O31, O32, O33, O34, O35. -/

namespace Sys2Proof.Machine

/-! ## Targets and link values (43_branch_jump R180, R181, R189) -/

/-- Twice a sign-extended offset does not overflow a word. -/
theorem toInt_signExtend_mul_two (off : BitVec 16) : (off.signExtend 32 * 2).toInt = 2 * off.toInt := by
  have hlow := off.le_toInt
  have hhigh := off.toInt_lt
  have htwo : (2 : Word).toInt = 2 := rfl
  rw [BitVec.toInt_mul, BitVec.toInt_signExtend_of_le (by decide), htwo, mul_comm]
  exact Int.bmod_eq_of_le (by omega) (by omega)

/-- R180 shifts the offset left and then extends its sign: as integers, both double it. -/
theorem branchTarget_eq_add_mul_two (pc : Word) (off : BitVec 16) :
    branchTarget pc off = pc + 4 + off.signExtend 32 * 2 := by
  have hshift : (off ++ 0b0#1).signExtend 32 = off.signExtend 32 * 2 := by
    apply BitVec.eq_of_toInt_eq
    rw [BitVec.toInt_signExtend_of_le (by decide), BitVec.toInt_append_zero, toInt_signExtend_mul_two, pow_one]
  rw [branchTarget, hshift]

theorem linkValue_eq_and_or (pc : Word) (mode : Bool) (k : Word) :
    linkValue pc mode k = ((pc + k) &&& 0xFFFFFFFE ||| if mode then 1 else 0) := by
  rw [linkValue]
  generalize pc + k = w
  apply BitVec.eq_of_getLsbD_eq
  intro b hb
  simp only [BitVec.getLsbD_append, BitVec.getLsbD_extractLsb', BitVec.getLsbD_or, BitVec.getLsbD_and]
  cases mode <;> interval_cases b <;> simp

/-- The field reaches no bit that the region of pc + 4 fixes, so the concatenation is a sum. -/
theorem regionTarget_eq_and_add (pc : Word) (target : BitVec 26) :
    regionTarget pc target = ((pc + 4) &&& 0xF0000000) + target.setWidth 32 * 4 := by
  have hmul : target.setWidth 32 * (4 : Word) = target.setWidth 32 <<< 2 :=
    BitVec.mul_twoPow_eq_shiftLeft (target.setWidth 32) 2
  rw [regionTarget, hmul]
  generalize pc + 4 = w
  have hdisjoint : (w &&& (0xF0000000 : Word)) &&& target.setWidth 32 <<< 2 = 0#32 := by
    apply BitVec.eq_of_getLsbD_eq
    intro b hb
    simp only [BitVec.getLsbD_and, BitVec.getLsbD_shiftLeft, BitVec.getLsbD_setWidth]
    interval_cases b <;> simp
  rw [BitVec.add_eq_or_of_and_eq_zero _ _ hdisjoint]
  apply BitVec.eq_of_getLsbD_eq
  intro b hb
  simp only [BitVec.getLsbD_append, BitVec.getLsbD_extractLsb', BitVec.getLsbD_or, BitVec.getLsbD_and,
    BitVec.getLsbD_shiftLeft, BitVec.getLsbD_setWidth]
  interval_cases b <;> simp

section
variable {s : State} {i : Instr}

/-! ## What a change of pc, ISAMode and the pending jump leaves alone (10_state R25, R26, R28) -/

theorem State.control_frame (s : State) (pc : Word) (mode : Bool) (delay : Option Delay) :
    let t := { s with pc := pc, isaMode := mode, delay := delay }
    SameGprExcept [] s t ∧ SameHiLo s t ∧ SameSystem s t ∧ SameMem s t :=
  ⟨fun _ _ => rfl, ⟨rfl, rfl, rfl⟩, ⟨rfl, rfl, rfl, rfl, rfl, rfl, rfl⟩, fun _ => rfl, rfl⟩

/-- With a link value GPR 31 changes besides (43_branch_jump R181). -/
theorem State.link_frame (s : State) (link pc : Word) (mode : Bool) (delay : Option Delay) :
    let t := { s.writeGpr regRa link with pc := pc, isaMode := mode, delay := delay }
    t.readGpr 31 = link ∧ SameGprExcept [31] s t ∧ SameHiLo s t ∧ SameSystem s t ∧ SameMem s t := by
  refine ⟨s.readGpr_writeGpr_self regRa link regRa_ne_zero, fun r hr => ?_, ?_, ?_, ?_⟩
  · exact s.readGpr_writeGpr_ne regRa r link (by simpa using hr)
  · simp [SameHiLo]
  · simp [SameSystem]
  · exact ⟨s.writeGpr_readByte regRa link, s.writeGpr_written regRa link⟩

/-! ## Rules that go to an address at once (43_branch_jump R180, R182 to R187, R191, R192) -/

/-- `State.jumpNow` moves pc and ISAMode alone. -/
theorem goesTo_of_jumpNow {pc : Word} {mode : Bool} (hexec : exec i s = .next (s.jumpNow pc mode)) :
    GoesTo i s pc mode :=
  ⟨s.jumpNow pc mode, hexec, rfl, rfl, rfl, s.control_frame _ _ _⟩

/-- A conditional branch goes to its target where its condition holds, and to the next instruction where not. -/
theorem goesTo_of_branchIf {c : Bool} {p : Prop} [Decidable p] {off : BitVec 16} (hc : c = true ↔ p)
    (hexec : exec i s = s.branchIf c off) :
    GoesTo i s (if p then s.pc + 4 + off.signExtend 32 * 2 else s.pc + 4) s.isaMode := by
  apply goesTo_of_jumpNow
  rw [hexec, State.branchIf, ← branchTarget_eq_add_mul_two]
  by_cases hp : p
  · rw [if_pos hp, if_pos (hc.mpr hp)]
  · rw [if_neg hp, if_neg (mt hc.mp hp)]; rfl

/-- A compact jump through a register goes where its value says, in the mode its bit 0 says (R181). -/
theorem goesTo_of_compactJump {r : Gpr}
    (hexec : exec i s = .next (s.jumpNow (jumpTarget (s.readGpr r)) (jumpMode (s.readGpr r)))) :
    GoesTo i s (s.readGpr r &&& 0xFFFFFFFE) ((s.readGpr r).getLsbD 0) := by
  rw [← jumpTarget_eq_and]
  exact goesTo_of_jumpNow hexec

/-- The compact jumps leave the pending jump and the outcome record as they find them. -/
theorem exec_compactJump_frame {rx : BitVec 3} {t : State} (hi : i = .jrcRa ∨ i = .jrcRx rx ∨ i = .jalrc rx)
    (hexec : exec i s = .next t) : t.delay = s.delay ∧ t.exc = s.exc := by
  rcases hi with rfl | rfl | rfl <;> obtain rfl := Host.Outcome.next.inj hexec
  · exact ⟨rfl, rfl⟩
  · exact ⟨rfl, rfl⟩
  · exact ⟨State.writeGpr_delay _ _ _, State.writeGpr_exc _ _ _⟩

/-- Where bit 1 is set an address is no multiple of 4. -/
theorem wordAligned_of_bit1 {a : Word} (h : a.getLsbD 1 = true) : wordAligned a = false := by
  have hbit : (a.extractLsb' 0 2).getLsbD 1 = true := by simpa using h
  have hne : a.extractLsb' 0 2 ≠ 0 := fun hzero => by rw [hzero] at hbit; cases hbit
  simpa [wordAligned] using hne

/-! ## Rules that leave a jump pending (43_branch_jump R188 to R190, R193, R194) -/

/-- A jump with a delay slot and no link. -/
theorem setsDelay_of_jumpAfterSlot {len : Word} {d : Delay}
    (hexec : exec i s = .next (s.jumpAfterSlot len d.target d.mode d.src)) : SetsDelay i s len none d :=
  ⟨_, hexec, rfl, rfl, rfl, s.control_frame _ _ _⟩

/-- A jump with a delay slot whose link goes to GPR 31. -/
theorem setsDelay_of_link {len link : Word} {d : Delay}
    (hexec : exec i s = .next ((s.writeGpr regRa link).jumpAfterSlot len d.target d.mode d.src)) :
    SetsDelay i s len (some link) d := by
  obtain ⟨hlink, hgpr, hrest⟩ := s.link_frame link _ _ _
  exact ⟨_, hexec, rfl, by simp, by simp, ⟨hlink, hgpr⟩, hrest⟩

/-! ## A halfword with no jump pending -/

/-- With no jump pending the step of a 16-bit instruction is the instruction (10_state R30). -/
theorem step_half (hexc : s.exc = none) (hm : s.isaMode = true) (hd : s.delay = none) (hf : HalfFetchable s s.pc)
    (hdec : decode (.half (s.readHalf s.pc)) = .ok i) : step s = exec i s := by
  rw [step_mips16e hexc hm, State.fetchCode16_half hf (isWide_of_decode_half hdec), State.runFetched]
  exact State.runCode_of_delay_none hd hdec

/-- JR ra moves to its delay slot with the jump through GPR 31 pending (R193). -/
theorem step_jrRa (hexc : s.exc = none) (hm : s.isaMode = true) (hd : s.delay = none) (hf : HalfFetchable s s.pc)
    (hjr : s.readHalf s.pc = 0xE820#16) :
    step s = .next (s.jumpAfterSlot 2 (jumpTarget (s.readGpr regRa)) (jumpMode (s.readGpr regRa)) (some regRa)) :=
  step_half (i := .jrRa) hexc hm hd hf (hjr ▸ decode_of_encode_eq rfl rfl)

/-- A NOP in a delay slot changes no register, so a jump that holds is taken and nothing else changes. -/
theorem step_nop_of_pending {d : Delay} (hexc : s.exc = none) (hm : s.isaMode = true) (hd : s.delay = some d)
    (hf : HalfFetchable s s.pc) (hnop : s.readHalf s.pc = 0x6500#16) (hkept : d.holds s = true) :
    step s = .next { s with delay := none, pc := d.target, isaMode := d.mode } := by
  obtain ⟨-, hdec, -⟩ := nopChangesOnlyPc
  obtain ⟨hnext, -⟩ := delaySlotStepTakesThePendingJump s d _ hexc hm hd hf (hnop ▸ hdec) rfl
  obtain ⟨-, htaken, -⟩ := hnext _ (exec_moveR32Rz_zero 0 s)
  exact htaken hexc ((d.holds_iff _).mp hkept)

end

/-! ## The statements -/

/-- Settles O31: the model's tests are the conditions of the statement, and doubling an offset neither overflows nor
makes a target odd. -/
theorem branches : Obligations.Branches := by
  intro rx off s
  have hlow := off.le_toInt
  have hhigh := off.toInt_lt
  have hreach := toInt_signExtend_mul_two off
  refine ⟨⟨encodedAs_opcodeRow rfl, goesTo_of_branchIf beq_iff_eq rfl⟩,
    ⟨encodedAs_opcodeRow rfl, goesTo_of_branchIf bne_iff_ne rfl⟩,
    ⟨encodedAs_opcodeRow rfl, ?_⟩,
    ⟨encodedAs_opcodeRow rfl, goesTo_of_branchIf beq_iff_eq rfl⟩,
    ⟨encodedAs_opcodeRow rfl, goesTo_of_branchIf bne_iff_ne rfl⟩,
    ⟨by omega, by omega⟩, fun heven => ?_⟩
  · rw [← branchTarget_eq_add_mul_two]
    exact goesTo_of_jumpNow rfl
  · rw [← branchTarget_eq_add_mul_two]
    exact branchTarget_even s.pc off heven

/-- Settles O32: each goes to the target of its register, and a target that is no multiple of 4 stops the next fetch of
32-bit mode. -/
theorem compactJumps : Obligations.CompactJumps := by
  intro rx s
  refine ⟨⟨encodedAs_opcodeRow rfl, goesTo_of_compactJump rfl⟩,
    ⟨encodedAs_opcodeRow rfl, goesTo_of_compactJump rfl⟩,
    ⟨encodedAs_opcodeRow rfl, _, rfl, ?_⟩, fun hexc hd i t hi hexec hmode hbit => ?_⟩
  · rw [← linkValue_eq_and_or, ← jumpTarget_eq_and]
    exact ⟨rfl, rfl, by simp, s.link_frame _ _ _ _⟩
  · obtain ⟨hdelay, hrecord⟩ := exec_compactJump_frame hi hexec
    refine ⟨_, step_mips32_misaligned (hrecord.trans hexc) hmode (wordAligned_of_bit1 hbit), ?_⟩
    rw [State.raise_exc, hdelay, hd]
    rfl

/-- Settles O33: each leaves its own register's jump pending, and the link of JALR does not change that register. -/
theorem jumpsWithADelaySlot : Obligations.JumpsWithADelaySlot := by
  intro rx s
  rw [← linkValue_eq_and_or]
  simp only [← jumpTarget_eq_and]
  exact ⟨⟨encodedAs_opcodeRow rfl, setsDelay_of_jumpAfterSlot rfl⟩,
    ⟨encodedAs_opcodeRow rfl, setsDelay_of_jumpAfterSlot rfl⟩, encodedAs_opcodeRow rfl, setsDelay_of_link rfl⟩

/-- Settles O34: the target the model concatenates is the sum of the statement, and the link is past the slot. -/
theorem regionJumps : Obligations.RegionJumps := by
  intro target s
  simp only [← regionTarget_eq_and_add, ← linkValue_eq_and_or]
  exact ⟨⟨encodedAs_opcodeRow rfl, setsDelay_of_link rfl⟩, encodedAs_opcodeRow rfl, setsDelay_of_link rfl⟩

/-- Settles O35: the encoding is well-formed and decodes, and its rule is the refusal. -/
theorem jalx16IsRefused : Obligations.Jalx16IsRefused := fun _ _ =>
  ⟨encodedAs_opcodeRow rfl, decode_encode rfl, rfl⟩

/-- Settles O14: the first step leaves the jump through GPR 31 pending, and the NOP in its slot keeps GPR 31, so the
second takes it. -/
theorem returnThroughItsDelaySlot : Obligations.ReturnThroughItsDelaySlot := by
  intro s hexc hm hd hf hf2 hjr hnop
  have hholds : Delay.holds ⟨jumpTarget (s.readGpr regRa), jumpMode (s.readGpr regRa), some regRa⟩ s = true := by
    simp [Delay.holds]
  rw [← jumpTarget_eq_and]
  exact ⟨_, _, step_jrRa hexc hm hd hf hjr, step_nop_of_pending hexc hm rfl hf2 hnop hholds,
    rfl, rfl, hm, rfl, rfl, rfl, s.control_frame _ _ _⟩

end Sys2Proof.Machine
end

section
/-! SUPPORT. Multiply, divide and the HI/LO moves (44_muldiv R210 to R215): the frame of a rule that writes HI and LO,
and the words it leaves there, as numbers: O26, O27, O28, O29, O30. -/

namespace Sys2Proof.Machine

section
variable {s : State} {i : Instr}

/-! ## What a change of HI, LO, the draws and pc leaves alone (10_state R25, R26, R28) -/

theorem State.hiLo_frame (s : State) (hi lo pc : Word) (draws : Nat) :
    let t := { s with hi := hi, lo := lo, pc := pc, draws := draws }
    SameGprExcept [] s t ∧ SameControl s t ∧ SameSystem s t ∧ SameMem s t :=
  ⟨fun _ _ => rfl, ⟨rfl, rfl⟩, ⟨rfl, rfl, rfl, rfl, rfl, rfl, rfl⟩, fun _ => rfl, rfl⟩

/-- A rule that ends in `State.writeHiLo` leaves its two words and makes no draw. -/
theorem leavesHiLo_of_writeHiLo {hi lo : Word} (hexec : exec i s = .next ((s.writeHiLo hi lo).advance 2)) :
    LeavesHiLo i s hi lo :=
  ⟨_, hexec, rfl, rfl, rfl, rfl, s.hiLo_frame _ _ _ _⟩

/-! ## Products (44_muldiv R214, R215) -/

/-- The words of `State.writeProduct`, put together again, are the product as a 64-bit word. -/
theorem leavesHiLo_of_writeProduct {p : Int} (hexec : exec i s = s.writeProduct p) :
    ∃ hi lo, LeavesHiLo i s hi lo ∧ hi ++ lo = BitVec.ofInt 64 p :=
  ⟨_, _, leavesHiLo_of_writeHiLo hexec, extractLsb'_append_extractLsb'_self (n := 32) (k := 32) _⟩

/-- A signed product of two words is at most `2 ^ 62` in size, so 64 bits hold it. -/
theorem toInt_ofInt_mul_toInt (a b : Word) : (BitVec.ofInt 64 (a.toInt * b.toInt)).toInt = a.toInt * b.toInt := by
  have hlower : -2 ^ (32 * 2 - 2) ≤ a.toInt * b.toInt := BitVec.le_toInt_mul_toInt
  have hupper : a.toInt * b.toInt ≤ 2 ^ (32 * 2 - 2) := BitVec.toInt_mul_toInt_le
  exact BitVec.toInt_ofInt_eq_self (by decide) (hlower.trans' (by decide)) (hupper.trans_lt (by decide))

/-- An unsigned product of two words is below `2 ^ 64`. -/
theorem toNat_ofInt_mul_toNat (a b : Word) :
    (BitVec.ofInt 64 (a.toNat * b.toNat : Nat)).toNat = a.toNat * b.toNat := by
  rw [BitVec.ofInt_natCast, BitVec.toNat_ofNat, Nat.mod_eq_of_lt BitVec.toNat_mul_toNat_lt]

/-! ## Truncated division (44_muldiv R210) -/

/-- Of all quotients of two words only that of -2^31 by -1 is no word. -/
theorem toInt_sdiv_of_fits {a b : Word} (hfits : ¬ (a.toInt = -2147483648 ∧ b.toInt = -1)) :
    (a.sdiv b).toInt = a.toInt.tdiv b.toInt := by
  refine BitVec.toInt_sdiv_of_ne_or_ne a b ((not_and_or.mp hfits).imp (fun ha heq => ha ?_) (fun hb heq => hb ?_))
  · subst heq; decide
  · subst heq; decide

/-- A truncated remainder never has the sign opposite to the dividend's. -/
theorem tmod_mul_self_nonneg (a b : Int) : 0 ≤ a.tmod b * a := by
  rcases le_total 0 a with hpos | hneg
  · exact mul_nonneg (Int.tmod_nonneg b hpos) hpos
  · have hnegated : 0 ≤ (-a).tmod b := Int.tmod_nonneg b (neg_nonneg.mpr hneg)
    rw [Int.neg_tmod, neg_nonneg] at hnegated
    exact mul_nonneg_of_nonpos_of_nonpos hnegated hneg

/-- The words of truncated division, where the quotient is a word, as the integers R210 asks for. -/
theorem toInt_sdiv_srem_spec {a b : Word} (hb : b.toInt ≠ 0) (hfits : ¬ (a.toInt = -2147483648 ∧ b.toInt = -1)) :
    a.toInt = (a.sdiv b).toInt * b.toInt + (a.srem b).toInt ∧
      (a.srem b).toInt.natAbs < b.toInt.natAbs ∧ 0 ≤ (a.srem b).toInt * a.toInt := by
  rw [toInt_sdiv_of_fits hfits, BitVec.toInt_srem]
  refine ⟨(Int.tdiv_mul_add_tmod _ _).symm, ?_, tmod_mul_self_nonneg _ _⟩
  rw [Int.natAbs_tmod]
  exact Nat.mod_lt _ (Int.natAbs_pos.mpr hb)

section
variable {rx ry : BitVec 3}

/-- Where R210 states a result, HI and LO receive the remainder and the quotient of the two words. -/
theorem exec_div_of_fits (hb : (s.readGpr (xlat ry)).toInt ≠ 0)
    (hfits : ¬ ((s.readGpr (xlat rx)).toInt = -2147483648 ∧ (s.readGpr (xlat ry)).toInt = -1)) :
    exec (.div rx ry) s = .next ((s.writeHiLo ((s.readGpr (xlat rx)).srem (s.readGpr (xlat ry)))
      ((s.readGpr (xlat rx)).sdiv (s.readGpr (xlat ry)))).advance 2) := by
  refine (if_neg (not_or.mpr ⟨hb, hfits⟩)).trans ?_
  rw [Int.mul_comm, ← Int.tmod_def, ← BitVec.toInt_srem, BitVec.ofInt_toInt, ← toInt_sdiv_of_fits hfits,
    BitVec.ofInt_toInt]

theorem exec_div_of_zero (hb : s.readGpr (xlat ry) = 0) : exec (.div rx ry) s = .next (s.drawHiLo.advance 2) :=
  if_pos (.inl (congrArg BitVec.toInt hb))

theorem exec_div_of_overflow (ha : s.readGpr (xlat rx) = 0x80000000) (hb : s.readGpr (xlat ry) = 0xFFFFFFFF) :
    exec (.div rx ry) s = .next (s.drawHiLo.advance 2) :=
  if_pos (.inr ⟨congrArg BitVec.toInt ha, congrArg BitVec.toInt hb⟩)

/-! ## Unsigned division (44_muldiv R211) -/

/-- Where R211 states a result, HI and LO receive the remainder and the quotient of the two words. -/
theorem exec_divu_of_ne_zero (hb : (s.readGpr (xlat ry)).toNat ≠ 0) :
    exec (.divu rx ry) s = .next ((s.writeHiLo (s.readGpr (xlat rx) % s.readGpr (xlat ry))
      (s.readGpr (xlat rx) / s.readGpr (xlat ry))).advance 2) := by
  refine (if_neg hb).trans ?_
  rw [Nat.mul_comm, ← Nat.mod_eq_sub_mul_div, ← BitVec.umod_def, ← BitVec.udiv_def]

theorem exec_divu_of_zero (hb : s.readGpr (xlat ry) = 0) : exec (.divu rx ry) s = .next (s.drawHiLo.advance 2) :=
  if_pos (congrArg BitVec.toNat hb)

end

end

/-! ## The statements -/

/-- Settles O26: 64 bits hold the product of two words, signed or not, and HI and LO are their halves. -/
theorem multiplyLeavesTheExactProduct : Obligations.MultiplyLeavesTheExactProduct := by
  intro rx ry s
  obtain ⟨hi, lo, hleaves, hproduct⟩ := leavesHiLo_of_writeProduct (s := s) (i := .mult rx ry) rfl
  obtain ⟨hiU, loU, hleavesU, hproductU⟩ := leavesHiLo_of_writeProduct (s := s) (i := .multu rx ry) rfl
  refine ⟨⟨encodedAs_opcodeRow rfl, hi, lo, hleaves, ?_⟩, encodedAs_opcodeRow rfl, hiU, loU, hleavesU, ?_⟩
  · rw [hproduct, toInt_ofInt_mul_toInt]
  · rw [hproductU, toNat_ofInt_mul_toNat]

/-- Settles O27: the words are the machine word's own truncated quotient and remainder, which here lose nothing. -/
theorem signedDivideTruncates : Obligations.SignedDivideTruncates := fun _ _ _ =>
  ⟨encodedAs_opcodeRow rfl, fun hb hfits =>
    ⟨_, _, leavesHiLo_of_writeHiLo (exec_div_of_fits hb hfits), toInt_sdiv_srem_spec hb hfits⟩⟩

/-- Settles O28: floor division of natural numbers, which is the machine word's own unsigned division. -/
theorem unsignedDivideLeavesQuotientAndRemainder : Obligations.UnsignedDivideLeavesQuotientAndRemainder := by
  intro rx ry s
  refine ⟨encodedAs_opcodeRow rfl, fun hb => ⟨_, _, leavesHiLo_of_writeHiLo (exec_divu_of_ne_zero hb), ?_, ?_⟩⟩
  · rw [BitVec.toNat_udiv, BitVec.toNat_umod, Nat.div_add_mod']
  · rw [BitVec.toNat_umod]
    exact Nat.mod_lt _ (Nat.pos_of_ne_zero hb)

/-- Settles O29: in each of the three cases HI and LO are drawn, and a draw is all that happens. -/
theorem divideWithNoStatedResultCompletes : Obligations.DivideWithNoStatedResultCompletes := by
  intro rx ry s i hcase
  have hexec : exec i s = .next (s.drawHiLo.advance 2) := by
    rcases hcase with ⟨rfl, hb⟩ | ⟨rfl, hb⟩ | ⟨rfl, ha, hb⟩
    · exact exec_div_of_zero hb
    · exact exec_divu_of_zero hb
    · exact exec_div_of_overflow ha hb
  exact ⟨_, hexec, rfl, s.hiLo_frame _ _ _ _⟩

/-- Settles O30: both moves are the rule that writes one register, which leaves HI and LO alone. -/
theorem moveFromHiAndLo : Obligations.MoveFromHiAndLo := fun rx _ =>
  ⟨⟨encodedAs_opcodeRow rfl, computes_of_setAndAdvance (xlat_ne_zero rx) rfl⟩,
    encodedAs_opcodeRow rfl, computes_of_setAndAdvance (xlat_ne_zero rx) rfl⟩

end Sys2Proof.Machine
end

section
/-! SUPPORT. Loads and stores (45_load_store R220 to R232): where an access is aligned and admitted and where it is
misaligned, and what a rule that ends in a load or a store then does: O36, O37, O38, O39, O40. -/

namespace Sys2Proof.Machine

/-! ## Alignment (20_memory R55) -/

/-- The alignment test of a halfword access looks at the lowest bit of the address. -/
theorem halfAligned_iff_getLsbD (a : Word) : halfAligned a = true ↔ a.getLsbD 0 = false := by
  rw [halfAligned_iff, BitVec.getLsbD, Nat.testBit_zero, decide_eq_false_iff_not]
  omega

theorem not_halfAligned_of_odd {a : Word} (hodd : a.getLsbD 0 = true) : ¬ halfAligned a = true := by
  rw [halfAligned_iff_getLsbD, hodd]
  decide

section
variable {s : State} {a : Word}

/-! ## Accesses that are aligned and admitted, and accesses that are misaligned (20_memory R55, R57) -/

theorem State.loadByte_admitted (hadmit : admits s.cfg a 1 .load = true) : s.loadByte a = .ok (s.readByte a) := by
  rw [State.loadByte_eq, if_pos hadmit]

theorem State.loadHalf_admitted (heven : a.getLsbD 0 = false) (hadmit : admits s.cfg a 2 .load = true) :
    s.loadHalf a = .ok (s.readHalf a) := by
  rw [State.loadHalf_eq, if_pos ((halfAligned_iff_getLsbD a).mpr heven), if_pos hadmit]

theorem State.loadWord_admitted (hal : a.toNat % 4 = 0) (hadmit : admits s.cfg a 4 .load = true) :
    s.loadWord a = .ok (s.readWord a) := by
  rw [State.loadWord_eq, if_pos ((wordAligned_iff a).mpr hal), if_pos hadmit]

theorem State.storeByte_admitted (b : Byte) (hadmit : admits s.cfg a 1 .store = true) :
    s.storeByte a b = .ok (s.writeBytes a [b]) := by
  rw [State.storeByte_eq, if_pos hadmit]

theorem State.storeHalf_admitted (h : Half) (heven : a.getLsbD 0 = false) (hadmit : admits s.cfg a 2 .store = true) :
    s.storeHalf a h = .ok (s.writeBytes a (halfToBytes s.cfg.bigEndian h)) := by
  rw [State.storeHalf_eq, if_pos ((halfAligned_iff_getLsbD a).mpr heven), if_pos hadmit]

theorem State.storeWord_admitted (w : Word) (hal : a.toNat % 4 = 0) (hadmit : admits s.cfg a 4 .store = true) :
    s.storeWord a w = .ok (s.writeBytes a (wordToBytes s.cfg.bigEndian w)) := by
  rw [State.storeWord_eq, if_pos ((wordAligned_iff a).mpr hal), if_pos hadmit]

theorem State.loadHalf_misaligned (hodd : a.getLsbD 0 = true) :
    s.loadHalf a = .error (.raise .addressError (some a)) := by
  rw [State.loadHalf_eq, if_neg (not_halfAligned_of_odd hodd)]

theorem State.loadWord_misaligned (hmis : a.toNat % 4 ≠ 0) :
    s.loadWord a = .error (.raise .addressError (some a)) := by
  rw [State.loadWord_eq, if_neg (mt (wordAligned_iff a).mp hmis)]

theorem State.storeHalf_misaligned (h : Half) (hodd : a.getLsbD 0 = true) :
    s.storeHalf a h = .error (.raise .addressError (some a)) := by
  rw [State.storeHalf_eq, if_neg (not_halfAligned_of_odd hodd)]

theorem State.storeWord_misaligned (w : Word) (hmis : a.toNat % 4 ≠ 0) :
    s.storeWord a w = .error (.raise .addressError (some a)) := by
  rw [State.storeWord_eq, if_neg (mt (wordAligned_iff a).mp hmis)]

/-! ## Rules that end in a load (45_load_store R220) -/

variable {i : Instr} {rd : Gpr}

theorem computes_of_byteLoad (ext : Byte → Word) (hrd : rd ≠ 0)
    (hexec : exec i s = s.finishLoad rd ((s.loadByte a).map ext)) (hadmit : admits s.cfg a 1 .load = true) :
    Computes i s rd (ext (s.readByte a)) 4 := by
  rw [State.loadByte_admitted hadmit] at hexec
  exact computes_of_setAndAdvance hrd hexec

theorem computes_of_halfLoad (ext : Half → Word) (hrd : rd ≠ 0)
    (hexec : exec i s = s.finishLoad rd ((s.loadHalf a).map ext)) (heven : a.getLsbD 0 = false)
    (hadmit : admits s.cfg a 2 .load = true) : Computes i s rd (ext (s.readHalf a)) 4 := by
  rw [State.loadHalf_admitted heven hadmit] at hexec
  exact computes_of_setAndAdvance hrd hexec

theorem computes_of_wordLoad (hrd : rd ≠ 0) (hexec : exec i s = s.finishLoad rd (s.loadWord a))
    (hal : a.toNat % 4 = 0) (hadmit : admits s.cfg a 4 .load = true) : Computes i s rd (s.readWord a) 4 := by
  rw [State.loadWord_admitted hal hadmit] at hexec
  exact computes_of_setAndAdvance hrd hexec

theorem takesException_of_halfLoad (ext : Half → Word)
    (hexec : exec i s = s.finishLoad rd ((s.loadHalf a).map ext)) (hodd : a.getLsbD 0 = true) :
    TakesException i s .addressError (some a) := by
  rw [State.loadHalf_misaligned hodd] at hexec
  exact takesException_of_raise hexec

theorem takesException_of_wordLoad (hexec : exec i s = s.finishLoad rd (s.loadWord a)) (hmis : a.toNat % 4 ≠ 0) :
    TakesException i s .addressError (some a) := by
  rw [State.loadWord_misaligned hmis] at hexec
  exact takesException_of_raise hexec

/-! ## Rules that end in a store (45_load_store R220) -/

/-- Storing bytes and moving pc leaves every register as before. -/
theorem State.store_frame (s : State) (a len : Word) (bs : List Byte) :
    let t := (s.writeBytes a bs).advance len
    SameGprExcept [] s t ∧ SameHiLo s t ∧ SameControl s t ∧ SameSystem s t := by
  refine ⟨fun r _ => ?_, ?_, ?_, ?_⟩
  · simp
  · simp [SameHiLo]
  · simp [SameControl]
  · simp [SameSystem]

theorem stores_of_writeBytes {bs : List Byte} {holds : State → Prop}
    (hexec : exec i s = .next ((s.writeBytes a bs).advance 4)) (hholds : holds ((s.writeBytes a bs).advance 4)) :
    Stores i s a bs.length holds :=
  ⟨_, hexec, hholds, s.writeBytes_storesOnly a bs, by simp, s.store_frame a 4 bs⟩

theorem stores_of_byteStore {b : Byte} (hexec : exec i s = s.finishStore (s.storeByte a b))
    (hadmit : admits s.cfg a 1 .store = true) : Stores i s a 1 fun t => t.readByte a = b := by
  rw [State.storeByte_admitted b hadmit] at hexec
  exact stores_of_writeBytes hexec (by simp [State.writeBytes])

theorem stores_of_halfStore {h : Half} (hexec : exec i s = s.finishStore (s.storeHalf a h))
    (heven : a.getLsbD 0 = false) (hadmit : admits s.cfg a 2 .store = true) :
    Stores i s a 2 fun t => t.readHalf a = h := by
  rw [State.storeHalf_admitted h heven hadmit] at hexec
  rw [← halfToBytes_length s.cfg.bigEndian h]
  exact stores_of_writeBytes hexec (s.readHalf_writeBytes a h)

theorem stores_of_wordStore {w : Word} (hexec : exec i s = s.finishStore (s.storeWord a w))
    (hal : a.toNat % 4 = 0) (hadmit : admits s.cfg a 4 .store = true) :
    Stores i s a 4 fun t => t.readWord a = w := by
  rw [State.storeWord_admitted w hal hadmit] at hexec
  rw [← wordToBytes_length s.cfg.bigEndian w]
  exact stores_of_writeBytes hexec (s.readWord_writeBytes a w)

theorem takesException_of_halfStore {h : Half} (hexec : exec i s = s.finishStore (s.storeHalf a h))
    (hodd : a.getLsbD 0 = true) : TakesException i s .addressError (some a) := by
  rw [State.storeHalf_misaligned h hodd] at hexec
  exact takesException_of_raise hexec

theorem takesException_of_wordStore {w : Word} (hexec : exec i s = s.finishStore (s.storeWord a w))
    (hmis : a.toNat % 4 ≠ 0) : TakesException i s .addressError (some a) := by
  rw [State.storeWord_misaligned w hmis] at hexec
  exact takesException_of_raise hexec

end

/-! ## The statements -/

/-- Settles O36: both are byte loads, and the extension of each keeps the number it is named for. -/
theorem byteLoads : Obligations.ByteLoads := by
  rintro rx ry off s a rfl
  refine ⟨encodedAs_opcodeRow rfl, encodedAs_opcodeRow rfl, fun hadmit => ⟨?signed, ?unsigned⟩⟩
  case signed =>
    exact ⟨_, computes_of_byteLoad (·.signExtend 32) (xlat_ne_zero ry) rfl hadmit,
      BitVec.toInt_signExtend_of_le (by decide)⟩
  case unsigned =>
    exact ⟨_, computes_of_byteLoad (·.setWidth 32) (xlat_ne_zero ry) rfl hadmit,
      BitVec.toNat_setWidth_of_le (by decide)⟩

/-- Settles O37: the lowest address bit decides between the halfword load and the Address Error. -/
theorem halfwordLoads : Obligations.HalfwordLoads := by
  rintro rx ry off s a rfl
  refine ⟨encodedAs_opcodeRow rfl, encodedAs_opcodeRow rfl, fun heven hadmit => ⟨?signed, ?unsigned⟩, fun hodd => ?odd⟩
  case signed =>
    exact ⟨_, computes_of_halfLoad (·.signExtend 32) (xlat_ne_zero ry) rfl heven hadmit,
      BitVec.toInt_signExtend_of_le (by decide)⟩
  case unsigned =>
    exact ⟨_, computes_of_halfLoad (·.setWidth 32) (xlat_ne_zero ry) rfl heven hadmit,
      BitVec.toNat_setWidth_of_le (by decide)⟩
  case odd =>
    exact ⟨takesException_of_halfLoad (rd := xlat ry) (·.signExtend 32) rfl hodd,
      takesException_of_halfLoad (rd := xlat ry) (·.setWidth 32) rfl hodd⟩

/-- Settles O38: the three forms are one word load that differs in the base and the destination. -/
theorem wordLoads : Obligations.WordLoads := by
  rintro rx ry off s i value mask base rd a hform rfl
  obtain ⟨henc, hrd, hexec⟩ : EncodedAs i 4 value mask ∧ rd ≠ 0 ∧
      exec i s = s.finishLoad rd (s.loadWord (base + sext16 off)) := by
    rcases hform with ⟨rfl, rfl, rfl, rfl, rfl⟩ | ⟨rfl, rfl, rfl, rfl, rfl⟩ | ⟨rfl, rfl, rfl, rfl, rfl⟩
    · exact ⟨encodedAs_opcodeRow rfl, xlat_ne_zero ry, rfl⟩
    · exact ⟨encodedAs_opcodeRow rfl, xlat_ne_zero rx, rfl⟩
    · rw [← pcBase_eq_and]
      exact ⟨encodedAs_opcodeRow rfl, xlat_ne_zero rx, rfl⟩
  exact ⟨henc, computes_of_wordLoad hrd hexec, takesException_of_wordLoad hexec⟩

/-- Settles O39: SB is a byte store, and the lowest address bit decides what SH does. -/
theorem byteAndHalfwordStores : Obligations.ByteAndHalfwordStores := by
  rintro rx ry off s a rfl
  exact ⟨encodedAs_opcodeRow rfl, encodedAs_opcodeRow rfl, stores_of_byteStore rfl,
    stores_of_halfStore rfl, takesException_of_halfStore rfl⟩

/-- Settles O40: the three forms are one word store that differs in the base and the data register. -/
theorem wordStores : Obligations.WordStores := by
  rintro rx ry off s i value mask base rd a hform rfl
  obtain ⟨henc, hexec⟩ : EncodedAs i 4 value mask ∧
      exec i s = s.finishStore (s.storeWord (base + sext16 off) (s.readGpr rd)) := by
    rcases hform with ⟨rfl, rfl, rfl, rfl, rfl⟩ | ⟨rfl, rfl, rfl, rfl, rfl⟩ | ⟨rfl, rfl, rfl, rfl, rfl⟩
    · exact ⟨encodedAs_opcodeRow rfl, rfl⟩
    · exact ⟨encodedAs_opcodeRow rfl, rfl⟩
    · exact ⟨encodedAs_opcodeRow rfl, rfl⟩
  exact ⟨henc, stores_of_wordStore hexec, takesException_of_wordStore hexec⟩

end Sys2Proof.Machine
end

section
/-! SUPPORT. SAVE and RESTORE (46_save_restore R250 to R257): where all their transfers are made and what they then
leave, where the first is misaligned, and a RESTORE after a SAVE: O42, O43, O44, O45, O46, O47, O48. -/

namespace Sys2Proof.Machine

section
variable {s : State} {i : Instr} {size len : Word}

theorem SameSystem.exc_eq {t : State} (h : SameSystem s t) : t.exc = s.exc := by
  obtain ⟨-, -, -, -, -, hexc, -⟩ := h
  exact hexc

theorem SameSystem.cfg_eq {t : State} (h : SameSystem s t) : t.cfg = s.cfg := by
  obtain ⟨-, -, -, -, -, -, hcfg⟩ := h
  exact hcfg

/-! ## Transfers that are all made (46_save_restore R250) -/

/-- The registers of SAVE are all stored where every slot is admitted; with none selected nothing need be aligned. -/
theorem State.storeFrame_ok {top : Word} {rs : List Gpr} (hal : rs ≠ [] → wordAligned top = true)
    (hadmit : ∀ k, k < rs.length → admits s.cfg (frameSlot top k) 4 .store = true) :
    ∃ t, s.storeFrame top rs = .ok t ∧ StoredWords s (frameSlot top) (rs.map s.readGpr) t := by
  rcases s.storeFrame_spec top rs with ⟨t, he, hst, _⟩ | ⟨_, _, k, _, hk, _, ⟨hmis, _⟩ | ⟨_, ⟨hl, _, hno⟩, _⟩⟩
  · exact ⟨t, he, hst⟩
  · rw [hal (List.ne_nil_of_length_pos (by omega))] at hmis; cases hmis
  · rw [hadmit _ hl] at hno; cases hno

/-- The registers of RESTORE are all loaded where every slot is admitted. -/
theorem State.loadFrame_ok {top : Word} {rs : List Gpr} (hal : rs ≠ [] → wordAligned top = true)
    (hadmit : ∀ k, k < rs.length → admits s.cfg (frameSlot top k) 4 .load = true) :
    ∃ t, s.loadFrame top rs = .ok t ∧ LoadedFrame s top rs t := by
  rcases s.loadFrame_spec top rs with ⟨t, he, hld, _⟩ | ⟨_, _, k, _, hk, _, ⟨hmis, _⟩ | ⟨_, ⟨hl, _, hno⟩, _⟩⟩
  · exact ⟨t, he, hld⟩
  · rw [hal (List.ne_nil_of_length_pos (by omega))] at hmis; cases hmis
  · rw [hadmit _ hl] at hno; cases hno

/-- Where every slot of a SAVE is admitted, both of its runs of stores are made. -/
theorem State.saveTransfers_ok {sp : Word} {args regs : List Gpr} (hal : args ++ regs ≠ [] → wordAligned sp = true)
    (hargs : ∀ k, k < args.length → admits s.cfg (argSlot sp k) 4 .store = true)
    (hregs : ∀ k, k < regs.length → admits s.cfg (frameSlot sp k) 4 .store = true) :
    ∃ s1 t, s.storeArgs sp args = .ok s1 ∧ s1.storeFrame sp regs = .ok t ∧
      StoredWords s (argSlot sp) (args.map s.readGpr) s1 ∧ StoredWords s1 (frameSlot sp) (regs.map s.readGpr) t := by
  have hstoreArgs : ∃ s1, s.storeArgs sp args = .ok s1 ∧ StoredWords s (argSlot sp) (args.map s.readGpr) s1 := by
    cases args with
    | nil => exact ⟨s, rfl, StoredWords.nil s _⟩
    | cons r rs => exact State.storeArgs_ok (hal (by simp)) hargs
  obtain ⟨s1, he1, h1⟩ := hstoreArgs
  have hcfg : s1.cfg = s.cfg := h1.sameSystem.cfg_eq
  obtain ⟨t, he2, h2⟩ := s1.storeFrame_ok (fun hne => hal (by simp [hne])) (hcfg ▸ hregs)
  rw [funext h1.readGpr] at h2
  exact ⟨s1, t, he1, he2, h1, h2⟩

/-! ## SAVE and RESTORE that complete (46_save_restore R253 to R256) -/

/-- The write of GPR 29 and pc that ends a SAVE leaves its frame as it is. -/
theorem FrameStored.writeGpr_advance {t : State} {args regs : List Gpr} (h : FrameStored s args regs t) (r : Gpr)
    (v : Word) : FrameStored s args regs ((t.writeGpr r v).advance len) := by
  simpa [FrameStored] using h

/-- SAVE completes where GPR 29 is aligned, or nothing is stored, and every slot is admitted. -/
theorem savesFrame_of_admitted {args regs : List Gpr} (hi : exec i s = s.saveFrame size len args regs)
    (hlen : args.length + regs.length < 1073741824)
    (hal : args ++ regs ≠ [] → wordAligned (s.readGpr regSp) = true)
    (hargs : ∀ k, k < args.length → admits s.cfg (argSlot (s.readGpr regSp) k) 4 .store = true)
    (hregs : ∀ k, k < regs.length → admits s.cfg (frameSlot (s.readGpr regSp) k) 4 .store = true) :
    SavesFrame i s args regs size len := by
  obtain ⟨s1, t, he1, he2, h1, h2⟩ := State.saveTransfers_ok hal hargs hregs
  have hexec : exec i s = .next ((t.writeGpr regSp (s.readGpr regSp - size)).advance len) := by
    simp only [hi, State.saveFrame, he1, he2]; rfl
  refine ⟨_, hexec, (FrameStored.of_storedWords hlen h1 h2).writeGpr_advance _ _, by simp, by simp [h2.pc, h1.pc],
    fun r hr => ?_, ?_, ?_, ?_⟩
  · have hne : r ≠ regSp := by simpa using hr
    simp [hne, h2.readGpr, h1.readGpr]
  · simpa [SameHiLo] using h1.sameHiLo.trans h2.sameHiLo
  · simpa [SameControl] using h1.sameControl.trans h2.sameControl
  · simpa [SameSystem] using h1.sameSystem.trans h2.sameSystem

/-- RESTORE completes where the frame's top is aligned, or nothing is loaded, and every slot is admitted. -/
theorem restoresFrame_of_admitted {ra s0 s1 : Bool} {xs : BitVec 3} {n : Nat}
    (hi : exec i s = s.restoreFrame size len (frameRegs ra s0 s1 (xsRegs xs) (staticRegs n)))
    (hal : frameRegs ra s0 s1 (xsRegs xs) (staticRegs n) ≠ [] → wordAligned (s.readGpr regSp + size) = true)
    (hadmit : ∀ k, k < (frameRegs ra s0 s1 (xsRegs xs) (staticRegs n)).length →
      admits s.cfg (frameSlot (s.readGpr regSp + size) k) 4 .load = true) :
    RestoresFrame i s (frameRegs ra s0 s1 (xsRegs xs) (staticRegs n)) size len := by
  obtain ⟨t, he, hld⟩ := State.loadFrame_ok hal hadmit
  have hexec : exec i s = .next ((t.writeGpr regSp (s.readGpr regSp + size)).advance len) := by
    rw [hi, State.restoreFrame, he]; rfl
  refine ⟨_, hexec, fun k hk => ?_, by simp, by simp [hld.pc], fun r hr => ?_, ?_, ?_, ?_, ?_⟩
  · have hne : (frameRegs ra s0 s1 (xsRegs xs) (staticRegs n))[k] ≠ regSp := fun heq =>
      regSp_not_mem_frameRegs ra s0 s1 xs n (heq ▸ List.getElem_mem hk)
    simp [hne, hld.loaded (frameRegs_nodup ra s0 s1 xs n) (zero_not_mem_frameRegs ra s0 s1 xs n) k hk]
  · obtain ⟨hne, hout⟩ : r ≠ regSp ∧ r ∉ frameRegs ra s0 s1 (xsRegs xs) (staticRegs n) := by simpa using hr
    simp [hne, hld.others r hout]
  · simpa [SameHiLo] using hld.sameHiLo
  · simpa [SameControl] using hld.sameControl
  · simpa [SameSystem] using hld.sameSystem
  · simpa [SameMem] using hld.sameMem

/-! ## SAVE and RESTORE whose first transfer is misaligned (46_save_restore R250, R257) -/

theorem State.storeArgs_misaligned {bottom : Word} {rs : List Gpr} (hmis : bottom.toNat % 4 ≠ 0) (hne : rs ≠ []) :
    s.storeArgs bottom rs = .error (.raise .addressError (some bottom), s) := by
  cases rs with
  | nil => exact absurd rfl hne
  | cons r rs => rw [State.storeArgs, State.storeWord_misaligned _ hmis]

theorem State.storeFrame_misaligned {top : Word} {rs : List Gpr} (hmis : top.toNat % 4 ≠ 0) (hne : rs ≠ []) :
    s.storeFrame top rs = .error (.raise .addressError (some (top - 4)), s) := by
  cases rs with
  | nil => exact absurd rfl hne
  | cons r rs => rw [State.storeFrame, State.storeWord_misaligned _ (by bv_omega)]

theorem State.loadFrame_misaligned {top : Word} {rs : List Gpr} (hmis : top.toNat % 4 ≠ 0) (hne : rs ≠ []) :
    s.loadFrame top rs = .error (.raise .addressError (some (top - 4)), s) := by
  cases rs with
  | nil => exact absurd rfl hne
  | cons r rs => rw [State.loadFrame, State.loadWord_misaligned (by bv_omega)]

/-- SAVE with arguments raises at the first of them, which GPR 29 itself addresses. -/
theorem takesException_of_saveArgs {args regs : List Gpr} (hi : exec i s = s.saveFrame size len args regs)
    (hmis : (s.readGpr regSp).toNat % 4 ≠ 0) (hne : args ≠ []) :
    TakesException i s .addressError (some (s.readGpr regSp)) := by
  rw [State.saveFrame, State.storeArgs_misaligned hmis hne] at hi
  exact takesException_of_raise hi

/-- SAVE without arguments raises at the word below GPR 29. -/
theorem takesException_of_saveRegs {regs : List Gpr} (hi : exec i s = s.saveFrame size len [] regs)
    (hmis : (s.readGpr regSp).toNat % 4 ≠ 0) (hne : regs ≠ []) :
    TakesException i s .addressError (some (s.readGpr regSp - 4)) := by
  simp only [State.saveFrame, State.storeArgs, State.storeFrame_misaligned hmis hne] at hi
  exact takesException_of_raise hi

/-- RESTORE raises at the word below the top of its frame, which is misaligned as GPR 29 is. -/
theorem takesException_of_restore {regs : List Gpr} (hi : exec i s = s.restoreFrame size len regs)
    (hmis : (s.readGpr regSp).toNat % 4 ≠ 0) (hsize : size.toNat % 4 = 0) (hne : regs ≠ []) :
    TakesException i s .addressError (some (s.readGpr regSp + size - 4)) := by
  rw [State.restoreFrame, State.loadFrame_misaligned (by bv_omega) hne] at hi
  exact takesException_of_raise hi

/-! ## RESTORE after SAVE (46_save_restore R253 to R256) -/

/-- `j` completes from `t'` with GPR 29 and each of `regs` as they are in `s`, and no other register changed. -/
def GivesBack (j : Instr) (s t' : State) (regs : List Gpr) : Prop :=
  ∃ u, exec j t' = .next u ∧ u.readGpr 29 = s.readGpr 29 ∧ (∀ r, r ∈ regs → u.readGpr r = s.readGpr r) ∧
    SameGprExcept (29 :: regs) t' u ∧ u.exc = t'.exc

/-- What a memory region admits for a store it admits for a load (20_memory R57). -/
theorem admits_load_of_store {cfg : Cfg} {a : Word} {n : Nat} (h : admits cfg a n .store = true) :
    admits cfg a n .load = true := by
  obtain ⟨r, hr, hcovers, -⟩ : ∃ r ∈ cfg.mem, Region.covers r a n = true ∧ r.writable = true := by simpa [admits] using h
  exact List.any_eq_true.mpr ⟨r, hr, by simp [hcovers]⟩

/-- A SAVE that completes with no exception has found GPR 29 aligned, where it stores anything, and every slot
admitted. -/
theorem saveFrame_admitted {t : State} {args regs : List Gpr} (h : s.saveFrame size len args regs = .next t)
    (hexc : t.exc = none) :
    (args ++ regs ≠ [] → wordAligned (s.readGpr regSp) = true) ∧
      (∀ k, k < args.length → admits s.cfg (argSlot (s.readGpr regSp) k) 4 .store = true) ∧
      ∀ k, k < regs.length → admits s.cfg (frameSlot (s.readGpr regSp) k) 4 .store = true := by
  obtain ⟨s', hok, -⟩ | ⟨_, _, _, _, rfl⟩ := finishFrame_next _ _ _ _ h
  case inr => simp at hexc
  rcases s.storeArgs_spec (s.readGpr regSp) args with ⟨s1, he1, h1, hargs⟩ | ⟨_, _, _, he1, _⟩
  case inr => simp [he1] at hok
  rcases s1.storeFrame_spec (s.readGpr regSp) regs with ⟨s2, _, _, hregs⟩ | ⟨_, _, _, he2, _⟩
  case inr => simp [he1, he2] at hok
  have hcfg : s1.cfg = s.cfg := h1.sameSystem.cfg_eq
  rw [hcfg] at hregs
  refine ⟨fun hne => ?_, fun k hk => (hargs k hk).2, fun k hk => (hregs k hk).2⟩
  cases args with
  | nil => exact (hregs 0 (List.length_pos_of_ne_nil hne)).1
  | cons r rs => exact (hargs 0 (by simp)).1

/-- A RESTORE from the frame a SAVE stored, which memory still holds, gives back GPR 29 and the registers. -/
theorem RestoresFrame.givesBack {t t' : State} {args regs : List Gpr} (h : RestoresFrame i t' regs size len)
    (hframe : FrameStored s args regs t) (htop : t'.readGpr 29 + size = s.readGpr 29)
    (hmem : ∀ a, t'.readByte a = t.readByte a) (hcfg : t'.cfg = t.cfg) : GivesBack i s t' regs := by
  obtain ⟨u, hu, hloaded, hraised, -, hsame, -, -, hsystem, -⟩ := h
  obtain ⟨-, hstored, -, -⟩ := hframe
  refine ⟨u, hu, hraised.trans htop, fun r hr => ?_, hsame, hsystem.exc_eq⟩
  obtain ⟨k, hk, rfl⟩ := List.getElem_of_mem hr
  calc u.readGpr regs[k]
      = t'.readWord (frameSlot (s.readGpr 29) k) := by rw [hloaded k hk, htop]
    _ = t.readWord (frameSlot (s.readGpr 29) k) := State.readWord_congr _ hcfg fun _ _ => hmem _
    _ = s.readGpr regs[k] := hstored k hk

/-- A RESTORE of the registers and size of a SAVE that completed with no exception completes and undoes it. -/
theorem givesBack_of_saveFrame {t t' : State} {j : Instr} {ra s0 s1 : Bool} {xs : BitVec 3} {args n : Nat} {len' : Word}
    (hargs : args ≤ 4)
    (hi : exec i s = s.saveFrame size len (argRegs args) (frameRegs ra s0 s1 (xsRegs xs) (staticRegs n)))
    (hj : exec j t' = t'.restoreFrame size len' (frameRegs ra s0 s1 (xsRegs xs) (staticRegs n)))
    (hexec : exec i s = .next t) (hexc : t.exc = none) (hsp : t'.readGpr 29 = t.readGpr 29)
    (hmem : ∀ a, t'.readByte a = t.readByte a) (hcfg : t'.cfg = t.cfg) :
    GivesBack j s t' (frameRegs ra s0 s1 (xsRegs xs) (staticRegs n)) := by
  obtain ⟨hal, hadmitArgs, hadmit⟩ := saveFrame_admitted (hi ▸ hexec) hexc
  obtain ⟨t1, hnext, hframe, hlowered, -, -, -, -, hsystem⟩ :=
    savesFrame_of_admitted hi (frame_length_lt hargs ra s0 s1 xs n) hal hadmitArgs hadmit
  obtain rfl : t1 = t := by simpa [hexec] using hnext.symm
  have htop : t'.readGpr regSp + size = s.readGpr regSp := by rw [hsp, hlowered, BitVec.sub_add_cancel]
  have hrestore := restoresFrame_of_admitted hj (fun hne => htop ▸ hal (by simp [hne])) fun k hk => by
    rw [htop, hcfg, hsystem.cfg_eq]; exact admits_load_of_store (hadmit k hk)
  exact hrestore.givesBack hframe htop hmem hcfg

end

/-! ## The registers of a frame (46_save_restore R251, R252) -/

theorem argRegs_ne_nil {args : Nat} (h : args ≠ 0) : argRegs args ≠ [] := by
  simpa [argRegs] using h

/-- Any one of the fields that select registers selects one. -/
theorem frameRegs_ne_nil {ra s0 s1 : Bool} {xs : BitVec 3} {n : Nat}
    (h : (ra || s0 || s1) = true ∨ xs ≠ 0 ∨ n ≠ 0) : frameRegs ra s0 s1 (xsRegs xs) (staticRegs n) ≠ [] := by
  intro hnil
  simp only [frameRegs, xsRegs, staticRegs, List.append_eq_nil_iff, List.reverse_eq_nil_iff,
    List.take_eq_nil_iff] at hnil
  obtain ⟨⟨⟨⟨hra, hxs⟩, hs1⟩, hs0⟩, hn⟩ := hnil
  rcases h with hsel | hxs' | hn'
  · simp_all
  · exact hxs' (BitVec.eq_of_toNat_eq (by simpa using hxs))
  · exact hn' (by simpa using hn)

/-! ## The statements -/

/-- Settles O42: SAVE has no arguments, and its registers are stored in its frame. -/
theorem saveStoresTheFrame : Obligations.SaveStoresTheFrame := by
  intro ra s0 s1 framesize s regs hregs
  rw [← frameRegs_short] at hregs
  subst hregs
  refine ⟨encodedAs_opcodeRow rfl, fun hsp hadmit => ?_⟩
  exact savesFrame_of_admitted (exec_save ..) (frame_length_lt (Nat.zero_le 4) ..)
    (fun hne => (wordAligned_iff _).mpr (hsp hne)) (by simp) hadmit

/-- Settles O43: as O42, with the arguments of the table stored first. -/
theorem extendedSaveStoresTheFrame : Obligations.ExtendedSaveStoresTheFrame := by
  intro ra s0 s1 xsregs aregs framesize s args astatic regs htable hregs
  obtain rfl : regs = frameRegs ra s0 s1 (xsRegs xsregs) (staticRegs astatic) := hregs
  have hargs := aregsTable_args_le htable
  refine ⟨encodedAs_opcodeRow rfl, fun hsp hadmitArgs hadmit => ?_⟩
  exact savesFrame_of_admitted (exec_saveExt htable ..) (frame_length_lt hargs ..)
    (fun hne => (wordAligned_iff _).mpr (hsp hne))
    (fun k hk => hadmitArgs k (hk.trans_eq (argRegs_length hargs))) hadmit

/-- Settles O44: the frame's top is aligned as GPR 29 is, and the registers are loaded from below it. -/
theorem restoreLoadsTheFrame : Obligations.RestoreLoadsTheFrame := by
  rintro ra s0 s1 framesize s regs size hregs rfl
  rw [← frameRegs_short] at hregs
  subst hregs
  refine ⟨encodedAs_opcodeRow rfl, fun hsp hadmit => ?_⟩
  exact restoresFrame_of_admitted (exec_restore ..)
    (fun hne => wordAligned_add_of_aligned (hsp hne) (frameBytes4_aligned framesize)) hadmit

/-- Settles O45: as O44, with the registers of the extended form. -/
theorem extendedRestoreLoadsTheFrame : Obligations.ExtendedRestoreLoadsTheFrame := by
  rintro ra s0 s1 xsregs aregs framesize s args astatic regs size htable hregs rfl
  obtain rfl : regs = frameRegs ra s0 s1 (xsRegs xsregs) (staticRegs astatic) := hregs
  refine ⟨encodedAs_opcodeRow rfl, fun hsp hadmit => ?_⟩
  exact restoresFrame_of_admitted (exec_restoreExt htable ..)
    (fun hne => wordAligned_add_of_aligned (hsp hne) (frameBytes8_aligned framesize)) hadmit

/-- Settles O46: the first transfer of each form fails its alignment test before any register or memory is written. -/
theorem misalignedFrameRaises : Obligations.MisalignedFrameRaises := by
  intro ra s0 s1 s hmis
  refine ⟨fun hsel framesize => ?_, fun xsregs aregs framesize args astatic htable => ?_⟩
  · have hne := frameRegs_ne_nil (xs := 0) (n := 0) (.inl hsel)
    exact ⟨takesException_of_saveRegs (exec_save ..) hmis hne,
      takesException_of_restore (exec_restore ..) hmis (frameBytes4_aligned framesize) hne⟩
  · refine ⟨fun hargs => takesException_of_saveArgs (exec_saveExt htable ..) hmis (argRegs_ne_nil hargs),
      fun hsel => ?_⟩
    have hne := frameRegs_ne_nil hsel
    refine ⟨?_, takesException_of_restore (exec_restoreExt htable ..) hmis (frameBytes8_aligned framesize) hne⟩
    rintro rfl
    exact takesException_of_saveRegs (exec_saveExt htable ..) hmis hne

/-- Settles O47: the table is evaluated row by row, and its reserved row is the first test of both forms. -/
theorem argumentAndStaticCounts : Obligations.ArgumentAndStaticCounts :=
  ⟨by decide, fun _ _ _ _ _ _ => ⟨rfl, rfl⟩⟩

/-- Settles O48: the words the SAVE stored are the ones the RESTORE loads. -/
theorem restoreUndoesSave : Obligations.RestoreUndoesSave := by
  refine ⟨?_, ?_⟩
  · intro ra s0 s1 framesize s t t' regs hregs hexec hexc hsp hmem hcfg
    rw [← frameRegs_short] at hregs
    subst hregs
    exact givesBack_of_saveFrame (Nat.zero_le 4) (exec_save ..) (exec_restore ..) hexec hexc hsp hmem hcfg
  · intro ra s0 s1 xsregs aregs framesize s t t' args astatic regs htable hregs hexec hexc hsp hmem hcfg
    obtain rfl : regs = frameRegs ra s0 s1 (xsRegs xsregs) (staticRegs astatic) := hregs
    exact givesBack_of_saveFrame (aregsTable_args_le htable) (exec_saveExt htable ..) (exec_restoreExt htable ..)
      hexec hexc hsp hmem hcfg

end Sys2Proof.Machine
end

section
/-! SUPPORT. Shifts by a field and by a register (47_shift R270 to R275): O24, O25. -/

namespace Sys2Proof.Machine

/-! ## A shifted word as arithmetic on its number (47_shift R270, R272, R274) -/

theorem toNat_shiftLeft_eq_mul_pow (w : Word) (n : Nat) : (w <<< n).toNat = w.toNat * 2 ^ n % 4294967296 := by
  rw [BitVec.toNat_shiftLeft, Nat.shiftLeft_eq]

theorem toNat_ushiftRight_eq_div_pow (w : Word) (n : Nat) : (w >>> n).toNat = w.toNat / 2 ^ n := by
  rw [BitVec.toNat_ushiftRight, Nat.shiftRight_eq_div_pow]

/-- Integer division by a positive number rounds toward minus infinity, as R272 says of the arithmetic shift. -/
theorem toInt_sshiftRight_eq_div_pow (w : Word) (n : Nat) : (w.sshiftRight n).toInt = w.toInt / 2 ^ n := by
  rw [BitVec.toInt_sshiftRight, Int.shiftRight_eq_div_pow, Int.natCast_pow, Int.cast_ofNat_Int]

/-! ## The amount of a variable shift (47_shift R271) -/

/-- Bits 31:5 of the register are ignored. -/
theorem State.toNat_shiftAmount (s : State) (rx : BitVec 3) :
    (s.shiftAmount rx).toNat = (s.readGpr (xlat rx)).toNat % 32 := by
  rw [State.shiftAmount, BitVec.extractLsb'_toNat, Nat.shiftRight_zero]

/-! ## The statements -/

/-- Settles O24: each shift is the machine word's own, by the number of the field. -/
theorem fixedShifts : Obligations.FixedShifts := by
  intro rx ry sa s
  exact ⟨encodedAs_and_leaves rfl (xlat_ne_zero rx) rfl (toNat_shiftLeft_eq_mul_pow _ _),
    encodedAs_and_leaves rfl (xlat_ne_zero rx) rfl (toInt_sshiftRight_eq_div_pow _ _),
    encodedAs_and_leaves rfl (xlat_ne_zero rx) rfl (toNat_ushiftRight_eq_div_pow _ _)⟩

/-- Settles O25: as O24, by an amount that is the register modulo 32. -/
theorem variableShifts : Obligations.VariableShifts := by
  intro rx ry s
  rw [← s.toNat_shiftAmount rx]
  exact ⟨encodedAs_and_leaves rfl (xlat_ne_zero ry) rfl (toNat_shiftLeft_eq_mul_pow _ _),
    encodedAs_and_leaves rfl (xlat_ne_zero ry) rfl (toInt_sshiftRight_eq_div_pow _ _),
    encodedAs_and_leaves rfl (xlat_ne_zero ry) rfl (toNat_ushiftRight_eq_div_pow _ _)⟩

end Sys2Proof.Machine
end

section
/-! SUPPORT. Exceptions (60_exceptions R302 to R311), and the words of an instruction read back (30_encoding R83 to
R98): O1, O13, O60. -/

namespace Sys2Proof.Machine

/-! ## What a step that takes an exception leaves (60_exceptions R307, R310, R311) -/

/-- The records that the rules of the source can raise (R302): an address stands in them exactly for Address Error. -/
structure ExcRecord.Raisable (e : ExcRecord) : Prop where
  kind : e.kind ∈ [.addressError, .breakpoint, .reservedInstruction, .debugBreakpoint, .debugModeBreakpoint]
  addr : e.addr ≠ none ↔ e.kind = .addressError

/-- The record `e` is that of the state `s` in which the step began, and `t` is `s` but for what R310 lets an
exception write. -/
structure PreciseException (s t : State) (e : ExcRecord) : Prop where
  raisable : e.Raisable
  epc : e.epc = s.pc
  inDelaySlot : e.inDelaySlot = s.delay.isSome
  pc : t.pc = s.pc
  isaMode : t.isaMode = s.isaMode
  delay : t.delay = none
  frame : SameGprExcept [] s t ∧ SameHiLo s t ∧ SameMem s t

section
variable {i : Instr} {s t : State} {e : ExcRecord} {kind : ExcKind} {addr : Option Word}

theorem ExcRecord.raisable_addressError {epc : Word} {inSlot : Bool} (h : addr ≠ none) :
    ExcRecord.Raisable ⟨.addressError, epc, inSlot, addr⟩ where
  kind := by simp
  addr := iff_of_true h rfl

/-- The kinds other than Address Error have no address. -/
theorem ExcRecord.raisable_of_no_addr {epc : Word} {inSlot : Bool}
    (h : kind ∈ [.breakpoint, .reservedInstruction, .debugBreakpoint, .debugModeBreakpoint]) :
    ExcRecord.Raisable ⟨kind, epc, inSlot, none⟩ where
  kind := List.mem_cons_of_mem _ h
  addr := by
    have hkind : kind ≠ .addressError := fun hk => by simp [hk] at h
    exact iff_of_false (fun hnone => hnone rfl) hkind

theorem State.raise_precise (h : ExcRecord.Raisable ⟨kind, s.pc, s.delay.isSome, addr⟩) :
    PreciseException s (s.raise kind addr) ⟨kind, s.pc, s.delay.isSome, addr⟩ :=
  ⟨h, rfl, rfl, rfl, rfl, rfl, s.raise_frame kind addr⟩

/-- DEPC and DExcCode, which a debug exception writes besides, are no part of the claim. -/
theorem State.raiseDebug_precise (code : BitVec 5) (h : ExcRecord.Raisable ⟨kind, s.pc, s.delay.isSome, none⟩) :
    PreciseException s { s.raiseDebug kind with debugDExcCode := code } ⟨kind, s.pc, s.delay.isSome, none⟩ :=
  ⟨h, rfl, rfl, rfl, rfl, rfl, s.raiseDebug_frame kind code⟩

/-- An instruction that ends in an exception did nothing before it: no other shape of `Effect` leaves a record. -/
theorem Effect.precise (h : Effect i s t) (hs : s.exc = none) (he : t.exc = some e) : PreciseException s t e := by
  cases h with
  | raises kind addr hk =>
    cases he
    rcases hk with ⟨rfl, haddr⟩ | ⟨hk, rfl⟩
    · exact State.raise_precise (ExcRecord.raisable_addressError haddr)
    · exact State.raise_precise (ExcRecord.raisable_of_no_addr (List.mem_append_left [_, _] hk))
  | raisesDebug kind code hk =>
    cases he
    exact State.raiseDebug_precise code (ExcRecord.raisable_of_no_addr (by simp [hk]))
  | branch c off => cases c <;> simp [hs] at he
  | saves s1 s2 _ _ _ _ _ h1 h2 =>
    obtain ⟨-, -, -, -, -, hexc, -⟩ := h1.sameSystem.trans h2.sameSystem
    simp [hexc, hs] at he
  | restores s1 _ _ _ _ _ _ _ _ _ h =>
    obtain ⟨-, -, -, -, -, hexc, -⟩ := h.sameSystem
    simp [hexc, hs] at he
  | _ => simp [hs] at he

/-- A step that ends in an exception took it in the fetch of 32-bit mode or in its instruction; the pending jump,
which is taken only without an exception, adds nothing. -/
theorem step_precise (hstep : step s = .next t) (he : t.exc = some e) : PreciseException s t e := by
  obtain ⟨hexc, ⟨_, _, rfl⟩ | ⟨c, i, u, _, _, _, _, hex, hret⟩⟩ := step_next s t hstep
  · cases he
    exact State.raise_precise (ExcRecord.raisable_addressError (Option.some_ne_none _))
  · rcases u.retire_next _ t hret with ⟨rfl, _⟩ | ⟨d, _, hu, _, rfl⟩
    · exact (exec_effect i s t hex).precise hexc he
    · exact absurd (hu.symm.trans he) (by simp)

end

/-! ## The statements -/

/-- Settles O60: each way a step can end in an exception is `State.raise` or `State.raiseDebug` of the state in which
it began. -/
theorem exceptionsArePrecise : Obligations.ExceptionsArePrecise := by
  intro s t e hstep he
  have h := step_precise hstep he
  exact ⟨h.epc, h.inDelaySlot, h.raisable.kind, h.raisable.addr, h.pc, h.isaMode, h.delay, h.frame⟩

/-- Settles O13: the outcome record is tested before anything is fetched. -/
theorem nothingFollowsAnException : Obligations.NothingFollowsAnException := by
  intro s e he
  rw [step, State.runStep, he]

/-- Settles O1: `decode_encode`, which goes through the formats of the encoder. -/
theorem decodeOfEncodeIsTheInstruction : Obligations.DecodeOfEncodeIsTheInstruction := fun _ hwf => decode_encode hwf

end Sys2Proof.Machine
end
